-- ==== Sys2Proof/Word.lean ====
section
/-! DEFINITION. The two sizes of value the block has (00_scope R10): the 32-bit word and the byte. -/

namespace Sys2Proof

/-- A word, 32 bits, unsigned (R10). -/
abbrev Word := BitVec 32

/-- A byte, 8 bits, unsigned (R10). -/
abbrev Byte := BitVec 8

end Sys2Proof
end

