-- ==== Sys2Proof/Config.lean ====
section
/-! DEFINITION. The fixed protocol constants (00_scope R7, R8), the implementation parameters (R9) and the layout of
the register window (10_state R100, 20_memory R202). -/

namespace Sys2Proof.Config

/-- `PREAMBLE_LEN`, in bytes (R7). -/
def preambleLen : Nat := 72

/-- `PREAMBLE_BYTE` (R7). -/
def preambleByte : Byte := 0xAA

/-- `SYNC_CW`, the frame-sync codeword and the constant register `SYNC` (R7, R110). -/
def syncCw : Word := 0x7CD215D8

/-- `IDLE_CW`, the constant register `IDLE`, which no command reads (R7, R110). -/
def idleCw : Word := 0x7A89C197

/-- `FUNC_CODE` (R7). -/
def funcCode : BitVec 2 := 0b11

/-- `BCH_GEN`: 11 bits, the leading term included (R7, R440). -/
def bchGen : BitVec 11 := 0x769

/-- `MAX_MSG_LEN`, in characters (R7). -/
def maxMsgLen : Nat := 40

/-- `PACK_BUF_SIZE`, in bytes (R8). -/
def packBufSize : Nat := 35

/-- `MAX_CW`, in codewords (R8). -/
def maxCw : Nat := 12

/-- `OUT_BUF_SIZE`, in bytes (R8). -/
def outBufSize : Nat := 128

/-- The values `PARITY_SPAN` may take (R9): the source's bits 30..1, or bits 31..1. -/
inductive ParitySpan
  | b30_1
  | b31_1
  deriving DecidableEq, Repr

/-- `PARITY_SPAN` of this hardware (R9, R450). Every unit that depends on the span takes it as an argument; only the
commands fix this value. DESIGN CHOICE, log 6, unsafe for a block built with the other span. -/
def paritySpan : ParitySpan := .b30_1

/-- `HAS_FRAME` of this hardware (R9, R570). The decoder takes it as an argument. DESIGN CHOICE, log 7, unsafe for a
block built without the frame assembler. -/
def hasFrame : Bool := true

/-- Which 0x200-byte window of the host's address space the block occupies: OPEN, so a constant without a value
(R9, R201). Log 5, safe. -/
opaque blockWindow : BitVec 23

/-- `BLOCK_BASE`: a 32-bit host address that is a multiple of 0x200 (R201). -/
def blockBase : Word := blockWindow ++ 0#9

/-- `CMD_LATENCY`: a bound per command (by its `OP`) in host clock cycles, OPEN; no definition of the model uses it
(R9, R720). Log 12, safe. -/
opaque cmdLatency : Nat → Nat

/-! The window's layout, by offset from `BLOCK_BASE` (R100, R202). -/

/-- The window is 0x200 bytes long (R200). -/
def windowSize : Nat := 0x200

/-- `MSG[0]`. -/
def msgBase : Nat := 0x040

/-- `PACK_BUF[0]`. -/
def packBase : Nat := 0x080

/-- `CW_BUF[0]`. -/
def cwBase : Nat := 0x0C0

/-- `OUT_BUF[0]`. -/
def outBase : Nat := 0x100

end Sys2Proof.Config
end

