-- ==== Sys2Proof/Syntax.lean ====
section
/-! DEFINITION. The ten commands of opcode_table.json (30_encoding R302), one constructor a row. -/

namespace Sys2Proof

/-- A command of the block. Operands other than `IDX` are registers, read when the command runs (R304). -/
inductive Instr
  /-- `NOP` (R400). -/
  | nop
  /-- `REV8` (R421). -/
  | rev8
  /-- `BCH` (R442). -/
  | bch
  /-- `PAR` (R451). -/
  | par
  /-- `SEAL` (R456). -/
  | sealCmd
  /-- `ADDRCW` (R482). -/
  | addrcw
  /-- `PACK` (R506). -/
  | pack
  /-- `MSGCW1 i` (R540): the slice index, "a natural number 0..255" (R304). -/
  | msgcw1 (idx : Nat)
  /-- `MSGCW` (R541). -/
  | msgcw
  /-- `ENCODE` (R574). -/
  | encode
  deriving DecidableEq, Repr

end Sys2Proof
end

