-- ==== Sys2Proof/WellFormed.lean ====
section
/-! DEFINITION. Which commands exist: the two checks of 30_encoding R300 and R302 (a slice index that fits `IDX`, and
ENCODE only with the frame assembler). -/

namespace Sys2Proof

/-- The commands a block with or without the frame assembler can be given. -/
def Instr.wfWith (hasFrame : Bool) : Instr → Bool
  | .nop => true
  | .rev8 => true
  | .bch => true
  | .par => true
  | .sealCmd => true
  | .addrcw => true
  | .pack => true
  | .msgcw1 idx => decide (idx < 256)
  | .msgcw => true
  | .encode => hasFrame

/-- The commands of this hardware. -/
def Instr.wf (i : Instr) : Bool := i.wfWith Config.hasFrame

end Sys2Proof
end

