-- ==== Sys2Proof/Decode.lean ====
section
/-! DEFINITION. The command word (30_encoding R300 to R304): the decoder, total on 32-bit values, the encoder, and the
host's reading of a table row. -/

namespace Sys2Proof

/-- Why a word is no command; every reason is reported as `ILLEGAL_CMD` (R303, R610). -/
inductive Reject
  /-- `RSV0` or `RSV1` is not zero. -/
  | reservedBits
  /-- `OP` is 0xA..0xF, or 0x9 without the frame assembler. -/
  | reservedOp
  /-- `IDX` is not zero and `OP` is not MSGCW1's. -/
  | idxNotZero
  deriving DecidableEq, Repr

/-- `OP`, bits 3:0 (R300). -/
def opField (v : Word) : BitVec 4 := v.extractLsb' 0 4

/-- `RSV0`, bits 7:4 (R300). -/
def rsv0Field (v : Word) : BitVec 4 := v.extractLsb' 4 4

/-- `IDX`, bits 15:8 (R300). -/
def idxField (v : Word) : BitVec 8 := v.extractLsb' 8 8

/-- `RSV1`, bits 31:16 (R300). -/
def rsv1Field (v : Word) : BitVec 16 := v.extractLsb' 16 16

/-- The opcode map (R302): the command `OP` selects, with operand `idx`. -/
def opcodeMap (hasFrame : Bool) (op : Nat) (idx : Nat) : Option Instr :=
  match op with
  | 0x0 => some .nop
  | 0x1 => some .rev8
  | 0x2 => some .bch
  | 0x3 => some .par
  | 0x4 => some .sealCmd
  | 0x5 => some .addrcw
  | 0x6 => some .pack
  | 0x7 => some (.msgcw1 idx)
  | 0x8 => some .msgcw
  | 0x9 => if hasFrame then some .encode else none
  | _ => none

/-- The decoder, its checks in the order of R301. -/
def decodeWith (hasFrame : Bool) (v : Word) : Except Reject Instr :=
  if rsv0Field v ≠ 0 ∨ rsv1Field v ≠ 0 then .error .reservedBits
  else
    match opcodeMap hasFrame (opField v).toNat (idxField v).toNat with
    | none => .error .reservedOp
    | some i => if (opField v).toNat ≠ 0x7 ∧ idxField v ≠ 0 then .error .idxNotZero else .ok i

/-- The decoder of this hardware. -/
def decode (v : Word) : Except Reject Instr := decodeWith Config.hasFrame v

/-- `OP` of a command (R302). -/
def Instr.opcode : Instr → BitVec 4
  | .nop => 0x0
  | .rev8 => 0x1
  | .bch => 0x2
  | .par => 0x3
  | .sealCmd => 0x4
  | .addrcw => 0x5
  | .pack => 0x6
  | .msgcw1 _ => 0x7
  | .msgcw => 0x8
  | .encode => 0x9

/-- The slice index of MSGCW1, 0 for every other command (R300). -/
def Instr.idx : Instr → Nat
  | .msgcw1 idx => idx
  | .nop | .rev8 | .bch | .par | .sealCmd | .addrcw | .pack | .msgcw | .encode => 0

/-- The command word: `RSV1`, `IDX`, `RSV0`, `OP` from the top (R300, R311). -/
def encode (i : Instr) : Word :=
  0#16 ++ BitVec.ofNat 8 i.idx ++ 0#4 ++ i.opcode

/-- The command in the low `nbits` bits of `w`, every higher bit of the 32-bit command word zero. The word is the value
written to `CMD`, so no byte order enters (R300). -/
def decodeTableWord (nbits w : Nat) : Option Instr :=
  if nbits ≤ 32 then
    match decode (BitVec.ofNat 32 (w % 2 ^ nbits)) with
    | .ok i => some i
    | .error _ => none
  else none

end Sys2Proof
end

