-- ==== Sys2Proof/Machine/State.lean ====
section
/-! DEFINITION. The state of the block (10_state R100), the host's side of the bus, the reasons a step stops, and the
state after reset (70_reset_and_hazards R700). -/

namespace Sys2Proof.Machine

/-- `STATUS.ERR` (R105, R600): the block never produces the codes 4 to 7. -/
inductive ErrCode
  | ok
  | capacity
  | nullInput
  | illegalCmd
  deriving DecidableEq, Repr

/-- `STATUS.STAGE` (R105, R600). -/
inductive Stage
  | none
  | pack
  | msgcw
  | frame
  deriving DecidableEq, Repr

/-- One event at the block's ports (R16, R701). Offsets are relative to `BLOCK_BASE` and sizes are in bytes (R12). -/
inductive BusEvent
  /-- `MemRead(off, size)`. -/
  | read (off size : Nat)
  /-- `MemWrite(off, size, v)`; a 1-byte write stores bits 7:0 of `v`. -/
  | write (off size : Nat) (v : Word)
  /-- The platform pulses the reset input (R701; log 11). -/
  | reset
  deriving DecidableEq, Repr

/-- The contents of the four buffer windows: pairs of an offset and a byte, offsets strictly rising, no byte equal to
what an unlisted offset reads as (log 8). -/
abbrev Memory := List Host.Cell

/-- The block's state: one field for each register or register field of R100, the buffer windows, and the two fields the
model adds for the host's side of the bus. -/
structure State where
  /-- `CTRL.MSG_PRESENT` (R104). -/
  msgPresent : Bool
  /-- `CTRL.OUT_PRESENT` (R104). -/
  outPresent : Bool
  /-- `STATUS.ERR` (R105). -/
  err : ErrCode
  /-- `STATUS.STAGE` (R105). -/
  stage : Stage
  /-- `STATUS.STICKY` (R105). -/
  sticky : Bool
  /-- `OPA` (R101). -/
  opa : Word
  /-- `RESULT` (R102). -/
  result : Word
  /-- `MSG_LEN[7:0]` (R106). -/
  msgLen : Byte
  /-- `PACK_CAP[7:0]` (R107). -/
  packCap : Byte
  /-- `CW_CAP[7:0]` (R107). -/
  cwCap : Byte
  /-- `OUT_CAP[7:0]` (R107). -/
  outCap : Byte
  /-- `PACK_LEN[7:0]` (R108). -/
  packLen : Byte
  /-- `CW_COUNT[7:0]` (R108). -/
  cwCount : Byte
  /-- `OUT_LEN[7:0]` (R108). -/
  outLen : Byte
  /-- `ADDR_CW` (R109). -/
  addrCw : Word
  /-- `MSG`, `PACK_BUF`, `CW_BUF` and `OUT_BUF` (R111 to R114). -/
  mem : Memory
  /-- The model's own: the events still to come, in bus order (R16, R214; log 1). -/
  pending : List BusEvent
  /-- The model's own: the data the bus returned for the last access, none after a write or a reset (log 3). -/
  readData : Option Word
  deriving DecidableEq, Repr

/-- Why the machine stops. -/
inductive Fault
  /-- `raise BusError(off, size)`: an access R203 makes illegal, raised by `serve` before anything is changed (R210,
  R615). A stop where the host goes on in its own way: safe (log 4). -/
  | busError (off size : Nat) (isWrite : Bool)
  deriving DecidableEq, Repr

/-- Why the model gives a command no meaning. -/
inductive Refusal
  /-- Raised by an arm of `exec` whose command has no meaning yet; no arm of this model raises it. Safe. -/
  | notModelled (mnemonic : String)
  deriving DecidableEq, Repr

/-- Every field at the value of R700; nothing is pending on the bus (log 1) and no data has been read (log 3). -/
def State.reset : State where
  msgPresent := false
  outPresent := false
  err := .ok
  stage := .none
  sticky := false
  opa := 0
  result := 0
  msgLen := 0
  packCap := 35
  cwCap := 12
  outCap := 128
  packLen := 0
  cwCount := 0
  outLen := 0
  addrCw := 0
  mem := []
  pending := []
  readData := Option.none

end Sys2Proof.Machine
end

