-- ==== Sys2Proof/Machine/Bits.lean ====
section
/-! DEFINITION. Bit-field and byte-order helpers (00_scope R10, R11; 20_memory R204, R211). -/

namespace Sys2Proof.Machine

/-- The `n`-bit value whose bit `i` is `f i` (R10). -/
def ofBits : (n : Nat) → (Nat → Bool) → BitVec n
  | 0, _ => 0#0
  | n + 1, f => BitVec.cons (f n) (ofBits n f)

/-- `popcount(v)`: the number of 1 bits in `v` (R11). -/
def popcount {n : Nat} (v : BitVec n) : Nat :=
  (List.range n).countP v.getLsbD

/-- Four bytes assembled little-endian, `b0` from the lowest offset (R204). -/
def wordLE (b0 b1 b2 b3 : Byte) : Word := b3 ++ b2 ++ b1 ++ b0

/-- The bytes of a word, bits 7:0 first (R204). -/
def bytesLE (v : Word) : List Byte :=
  [v.extractLsb' 0 8, v.extractLsb' 8 8, v.extractLsb' 16 8, v.extractLsb' 24 8]

/-- `be32`: the bytes of a word, bits 31:24 first (R211, R572). -/
def bytesBE (v : Word) : List Byte :=
  [v.extractLsb' 24 8, v.extractLsb' 16 8, v.extractLsb' 8 8, v.extractLsb' 0 8]

end Sys2Proof.Machine
end

