-- ==== Sys2Proof/Machine/Flags.lean ====
section
/-! DEFINITION. The flag fields: the codes of `STATUS.ERR` and `STATUS.STAGE`, the rule of `STICKY`, and `CTRL` and
`STATUS` as the bus reads them (10_state R104, R105; 60_exceptions R600, R601, R603). -/

namespace Sys2Proof.Machine

/-- The code of an outcome in `STATUS.ERR` (R600). -/
def errCode : ErrCode → BitVec 3
  | .ok => 0
  | .capacity => 1
  | .nullInput => 2
  | .illegalCmd => 3

/-- The code of a stage in `STATUS.STAGE` (R600). -/
def stageCode : Stage → BitVec 2
  | .none => 0
  | .pack => 1
  | .msgcw => 2
  | .frame => 3

/-- `STICKY` after a command that ends with `err`: set by an error, never cleared (R601). -/
def stickyAfter (err : ErrCode) (old : Bool) : Bool :=
  match err with
  | .ok => old
  | .capacity | .nullInput | .illegalCmd => true

/-- `STICKY` after a 4-byte write of `v` to `STATUS`: bit 8 is write-1-to-clear (R603). -/
def stickyW1C (v : Word) (old : Bool) : Bool :=
  if v.getLsbD 8 then false else old

/-- `STATUS` as a read returns it, reserved bits zero (R105). -/
def statusWord (s : State) : Word :=
  0#23 ++ BitVec.ofBool s.sticky ++ 0#2 ++ stageCode s.stage ++ 0#1 ++ errCode s.err

/-- `CTRL` as a read returns it, reserved bits zero (R104). -/
def ctrlWord (s : State) : Word :=
  0#30 ++ BitVec.ofBool s.outPresent ++ BitVec.ofBool s.msgPresent

end Sys2Proof.Machine
end

