-- ==== Sys2Proof/Machine/Ops.lean ====
section
/-! DEFINITION. The operations over memory and registers: the buffer store, one write per register, the completion of
a command (00_scope R13, 60_exceptions R601), and the register window (20_memory R202 to R207). -/

namespace Sys2Proof.Machine

/-! ## The buffer store -/

/-- What an offset that is not listed reads as: the reset contents of every buffer (R700; log 9). -/
def unlistedByte : Byte := 0x00

/-- The canonical form: offsets strictly rising, no byte that an unlisted offset reads as (log 8). -/
abbrev Memory.wf (m : Memory) : Prop :=
  m.Pairwise (fun c d => c.1 < d.1) ∧ ∀ c ∈ m, c.2 ≠ unlistedByte

/-- One byte of the store. -/
def Memory.read : Memory → Nat → Byte
  | [], _ => unlistedByte
  | c :: m, a => if c.1 = a then c.2 else Memory.read m a

/-- The cells that hold `bs` from offset `a` on, the bytes an unlisted offset reads as left out. -/
def cellsFrom : Nat → List Byte → Memory
  | _, [] => []
  | a, b :: bs => if b = unlistedByte then cellsFrom (a + 1) bs else (a, b) :: cellsFrom (a + 1) bs

/-- The store with `bs` at offsets `a`, `a + 1`, … and every other offset as before. -/
def Memory.store (m : Memory) (a : Nat) (bs : List Byte) : Memory :=
  m.filter (fun c => c.1 < a) ++ cellsFrom a bs ++ m.filter (fun c => a + bs.length ≤ c.1)

/-- `n` bytes from offset `a` on. -/
def Memory.readBytes (m : Memory) (a n : Nat) : List Byte :=
  (List.range n).map fun i => m.read (a + i)

/-- The four bytes from offset `a` on, assembled little-endian (R204). -/
def Memory.readWord (m : Memory) (a : Nat) : Word :=
  wordLE (m.read a) (m.read (a + 1)) (m.read (a + 2)) (m.read (a + 3))

/-! ## The buffers by name (R111 to R114) -/

/-- `MSG[i]`. -/
def State.msg (s : State) (i : Nat) : Byte := s.mem.read (Config.msgBase + i)

/-- `PACK_BUF[j]`. -/
def State.packBuf (s : State) (j : Nat) : Byte := s.mem.read (Config.packBase + j)

/-- `CW_BUF[k]`, a word; it is stored as its four bytes, little-endian (log 8). -/
def State.cwBuf (s : State) (k : Nat) : Word := s.mem.readWord (Config.cwBase + 4 * k)

/-- `OUT_BUF[j]`. -/
def State.outBuf (s : State) (j : Nat) : Byte := s.mem.read (Config.outBase + j)

/-! ## One write per register -/

/-- Bytes stored into the buffers. -/
def State.store (s : State) (a : Nat) (bs : List Byte) : State := { s with mem := s.mem.store a bs }

/-- `PACK_BUF[0..] <- bs` (R112). -/
def State.setPackBuf (s : State) (bs : List Byte) : State := s.store Config.packBase bs

/-- `CW_BUF[0..] <- ws` (R113). -/
def State.setCwBuf (s : State) (ws : List Word) : State := s.store Config.cwBase (ws.flatMap bytesLE)

/-- `OUT_BUF[0..] <- bs` (R114). -/
def State.setOutBuf (s : State) (bs : List Byte) : State := s.store Config.outBase bs

/-- `RESULT <- v` (R102). -/
def State.setResult (s : State) (v : Word) : State := { s with result := v }

/-- `ADDR_CW <- v` (R109). -/
def State.setAddrCw (s : State) (v : Word) : State := { s with addrCw := v }

/-- `PACK_LEN <- n` (R108). -/
def State.setPackLen (s : State) (n : Nat) : State := { s with packLen := BitVec.ofNat 8 n }

/-- `CW_COUNT <- n` (R108). -/
def State.setCwCount (s : State) (n : Nat) : State := { s with cwCount := BitVec.ofNat 8 n }

/-- `OUT_LEN <- n` (R108). -/
def State.setOutLen (s : State) (n : Nat) : State := { s with outLen := BitVec.ofNat 8 n }

/-- A host write to `CTRL`: bits 1:0 are stored, the rest discarded (R104, R206). -/
def State.setCtrl (s : State) (v : Word) : State :=
  { s with msgPresent := v.getLsbD 0, outPresent := v.getLsbD 1 }

/-- A host write to `STATUS` (R603). -/
def State.clearSticky (s : State) (v : Word) : State := { s with sticky := stickyW1C v s.sticky }

/-- A host write to `OPA` (R101). -/
def State.setOpa (s : State) (v : Word) : State := { s with opa := v }

/-- A host write to `MSG_LEN`: bits 7:0 are stored (R106, R206). -/
def State.setMsgLen (s : State) (v : Word) : State := { s with msgLen := v.setWidth 8 }

/-- A host write to `PACK_CAP` (R107, R206). -/
def State.setPackCap (s : State) (v : Word) : State := { s with packCap := v.setWidth 8 }

/-- A host write to `CW_CAP` (R107, R206). -/
def State.setCwCap (s : State) (v : Word) : State := { s with cwCap := v.setWidth 8 }

/-- A host write to `OUT_CAP` (R107, R206). -/
def State.setOutCap (s : State) (v : Word) : State := { s with outCap := v.setWidth 8 }

/-! ## Completion: the block's only exception entry and its only return -/

/-- `complete(err, stage)`, the last write of every command; with `err` other than OK it is `raise CommandError`, all
that an error does (R13, R401, R601, R602, R617). -/
def State.complete (s : State) (err : ErrCode) (stage : Stage) : State :=
  { s with err := err, stage := stage, sticky := stickyAfter err s.sticky }

/-- The error of a word that is no command: `STATUS` only (R610). -/
def State.illegalCommand (s : State) : State := s.complete .illegalCmd .none

/-! ## The host's side of the bus -/

/-- The next event is taken off the bus; `rest` are the events after it (log 1, log 3). -/
def State.accept (s : State) (rest : List BusEvent) : State :=
  { s with pending := rest, readData := Option.none }

/-- The bus returns `v` to the host (log 3). -/
def State.respond (s : State) (v : Word) : State := { s with readData := some v }

/-- The platform resets the block: every register and buffer at R700's value, the events still to come as they were
(R701; log 11). -/
def State.resetBlock (s : State) : State := { State.reset with pending := s.pending }

/-! ## The register window -/

/-- The word registers of R100, at offsets 0x000 to 0x038. -/
inductive WordReg
  | ctrl | cmd | status | opa | result | msgLen | packCap | cwCap | outCap | packLen | cwCount | outLen | addrCw
  | sync | idle
  deriving DecidableEq, Repr

/-- The offset of a word register (R100). -/
def WordReg.offset : WordReg → Nat
  | .ctrl => 0x000
  | .cmd => 0x004
  | .status => 0x008
  | .opa => 0x00C
  | .result => 0x010
  | .msgLen => 0x014
  | .packCap => 0x018
  | .cwCap => 0x01C
  | .outCap => 0x020
  | .packLen => 0x024
  | .cwCount => 0x028
  | .outLen => 0x02C
  | .addrCw => 0x030
  | .sync => 0x034
  | .idle => 0x038

/-- The word register at an offset (R100). -/
def regAt (off : Nat) : Option WordReg :=
  match off with
  | 0x000 => some .ctrl
  | 0x004 => some .cmd
  | 0x008 => some .status
  | 0x00C => some .opa
  | 0x010 => some .result
  | 0x014 => some .msgLen
  | 0x018 => some .packCap
  | 0x01C => some .cwCap
  | 0x020 => some .outCap
  | 0x024 => some .packLen
  | 0x028 => some .cwCount
  | 0x02C => some .outLen
  | 0x030 => some .addrCw
  | 0x034 => some .sync
  | 0x038 => some .idle
  | _ => none

/-- A word register as a 4-byte read returns it: narrow fields zero-extended, `CMD` zero, the constants fixed
(R103 to R110, R206). -/
def readReg (r : WordReg) (s : State) : Word :=
  match r with
  | .ctrl => ctrlWord s
  | .cmd => 0
  | .status => statusWord s
  | .opa => s.opa
  | .result => s.result
  | .msgLen => s.msgLen.setWidth 32
  | .packCap => s.packCap.setWidth 32
  | .cwCap => s.cwCap.setWidth 32
  | .outCap => s.outCap.setWidth 32
  | .packLen => s.packLen.setWidth 32
  | .cwCount => s.cwCount.setWidth 32
  | .outLen => s.outLen.setWidth 32
  | .addrCw => s.addrCw
  | .sync => Config.syncCw
  | .idle => Config.idleCw

/-- A 4-byte write to a word register other than `CMD`; read-only registers ignore it (R206, R207). -/
def writeReg (r : WordReg) (v : Word) (s : State) : State :=
  match r with
  | .ctrl => s.setCtrl v
  | .status => s.clearSticky v
  | .opa => s.setOpa v
  | .msgLen => s.setMsgLen v
  | .packCap => s.setPackCap v
  | .cwCap => s.setCwCap v
  | .outCap => s.setOutCap v
  | .cmd | .result | .packLen | .cwCount | .outLen | .addrCw | .sync | .idle => s

/-- Is the offset a byte of `MSG`? (R111) -/
def inMsg (off : Nat) : Bool := decide (0x040 ≤ off ∧ off < 0x068)

/-- Is the offset a byte of `PACK_BUF`? Byte 0x0A3 is reserved (R112, R202). -/
def inPackBuf (off : Nat) : Bool := decide (0x080 ≤ off ∧ off < 0x0A3)

/-- Is the offset a byte of `CW_BUF`? (R113) -/
def inCwBuf (off : Nat) : Bool := decide (0x0C0 ≤ off ∧ off < 0x0F0)

/-- Is the offset a byte of `OUT_BUF`? (R114) -/
def inOutBuf (off : Nat) : Bool := decide (0x100 ≤ off ∧ off < 0x180)

/-- Does the offset hold a byte of a buffer? -/
def isStored (off : Nat) : Bool := inMsg off || inPackBuf off || inCwBuf off || inOutBuf off

/-- May the offset be accessed with one byte? Byte 0x0A3 may (R203). -/
def inByteWindow (off : Nat) : Bool :=
  inMsg off || decide (0x080 ≤ off ∧ off < 0x0A4) || inOutBuf off

/-- The accesses R203 makes legal; every other is a bus error (R210). -/
def legalAccess (off size : Nat) : Bool :=
  (size == 4 && off % 4 == 0 && decide (off < Config.windowSize)) || (size == 1 && inByteWindow off)

/-- One byte of the window outside the word registers: reserved offsets read zero (R205). -/
def readWindowByte (off : Nat) (s : State) : Byte :=
  if isStored off then s.mem.read off else 0

/-- A legal 4-byte read (R204, R205, R206). -/
def readWord (off : Nat) (s : State) : Word :=
  match regAt off with
  | some r => readReg r s
  | none => wordLE (readWindowByte off s) (readWindowByte (off + 1) s) (readWindowByte (off + 2) s)
      (readWindowByte (off + 3) s)

/-- A 4-byte write outside the word registers: only `MSG` is writable (R204, R205, R207). -/
def writeWindowWord (off : Nat) (v : Word) (s : State) : State :=
  if inMsg off then s.store off (bytesLE v) else s

/-- A 1-byte write: only `MSG` is writable (R205, R207). -/
def writeWindowByte (off : Nat) (b : Byte) (s : State) : State :=
  if inMsg off then s.store off [b] else s

/-- The offset of a host address: `addr - BLOCK_BASE`, 32-bit (R200, R201; log 5). -/
def hostOffset (base addr : Word) : Nat := (addr - base).toNat

end Sys2Proof.Machine
end

