-- ==== Sys2Proof/Machine/Operands.lean ====
section
/-! DEFINITION. The operand forms (30_encoding R304): every operand but `IDX` is a register or buffer, read at the
moment the command runs. -/

namespace Sys2Proof.Machine

/-- `OPA[7:0]`, REV8's operand. -/
def opaByte (s : State) : Byte := s.opa.setWidth 8

/-- `OPA[31:0]`, the operand of BCH, PAR, SEAL, ADDRCW and ENCODE. -/
def opaWord (s : State) : Word := s.opa

/-- `MSG[0..39]`, the operand of PACK and ENCODE (R111). -/
def msgOperand (s : State) : List Byte := s.mem.readBytes Config.msgBase Config.maxMsgLen

/-- `MSG_LEN[7:0]` as a number (R106). -/
def msgLenOperand (s : State) : Nat := s.msgLen.toNat

/-- `PACK_BUF[0..34]`, the operand of MSGCW1 and MSGCW (R112). -/
def packBufOperand (s : State) : List Byte := s.mem.readBytes Config.packBase Config.packBufSize

/-- `PACK_LEN[7:0]` as a number (R108). -/
def packLenOperand (s : State) : Nat := s.packLen.toNat

/-- `pb_byte(j)`: byte `j` of a packed buffer, zero from index 35 on (R531). -/
def pbByte (pb : List Byte) (j : Nat) : Byte := pb.getD j 0x00

end Sys2Proof.Machine
end

