-- ==== Sys2Proof/Machine/Control.lean ====
section
/-! DEFINITION. The control command (40_control). -/

namespace Sys2Proof.Machine

/-- `NOP` (R400). -/
def execNop (s : State) : Host.Outcome State Fault Refusal :=
  .next (s.complete .ok .none)

end Sys2Proof.Machine
end

