-- ==== Sys2Proof/Machine/BchParity.lean ====
section
/-! DEFINITION. The BCH(31,21,5) encoder, the even-parity calculator and the codeword checks (42_bch_parity). -/

namespace Sys2Proof.Machine

/-- The division loop of R441: `n` turns with remainder `d`, generator `g` and test mask `m`. -/
def bchDivide : (n : Nat) → (d g m : Word) → Word
  | 0, d, _, _ => d
  | n + 1, d, g, m => bchDivide n (if d &&& m ≠ 0 then d ^^^ g else d) (g >>> 1) (m >>> 1)

/-- `bch(w)`: the remainder of the data field, ORed into bits 10..1 (R441). -/
def bch (w : Word) : Word :=
  w ||| (bchDivide 21 (w &&& 0xFFFFF800) (Config.bchGen.setWidth 32 <<< 21) 0x80000000 &&& 0x000007FE)

/-- The remainder of a 31-bit value, read as a polynomial over GF(2), by the generator: `n` turns that clear bits
`n + 9` down to 10 (R443, R457). -/
def gf2Rem : (n : Nat) → BitVec 31 → BitVec 31
  | 0, v => v
  | n + 1, v => gf2Rem n (if v.getLsbD (n + 10) then v ^^^ (Config.bchGen.setWidth 31 <<< n) else v)

/-- The source's frame of the encoder: the same division on `w >> 1`, its remainder shifted left by one (R443). -/
def bchSourceFrame (w : Word) : Word :=
  w ||| ((gf2Rem 21 ((w &&& 0xFFFFF800).extractLsb' 1 31)).setWidth 32 <<< 1)

/-- `p` of R450: 1 when the span holds an odd number of 1 bits. -/
def parityOdd (span : Config.ParitySpan) (w : Word) : Bool :=
  match span with
  | .b30_1 => popcount (w.extractLsb' 1 30) % 2 == 1
  | .b31_1 => popcount (w.extractLsb' 1 31) % 2 == 1

/-- `par(w)`: bit 0 set when the count over the span is odd, kept when it was set (R450). -/
def par (span : Config.ParitySpan) (w : Word) : Word :=
  w ||| (BitVec.ofBool (parityOdd span w)).setWidth 32

/-- `seal(w) = par(bch(w))` (R455). -/
def sealWord (span : Config.ParitySpan) (w : Word) : Word := par span (bch w)

/-- `syndrome_ok(w)`: bits 31..1 are divisible by the generator (R457). -/
def syndromeOk (w : Word) : Bool := gf2Rem 21 (w.extractLsb' 1 31) == 0

/-- `parity_ok(w)`: the span together with bit 0 holds an even number of 1 bits (R457). -/
def parityOk (span : Config.ParitySpan) (w : Word) : Bool :=
  match span with
  | .b30_1 => popcount (w.extractLsb' 0 31) % 2 == 0
  | .b31_1 => popcount w % 2 == 0

/-- `BCH` (R442). -/
def execBch (s : State) : Host.Outcome State Fault Refusal :=
  .next ((s.setResult (bch (opaWord s))).complete .ok .none)

/-- `PAR` (R451). -/
def execPar (s : State) : Host.Outcome State Fault Refusal :=
  .next ((s.setResult (par Config.paritySpan (opaWord s))).complete .ok .none)

/-- `SEAL` (R456). -/
def execSeal (s : State) : Host.Outcome State Fault Refusal :=
  .next ((s.setResult (sealWord Config.paritySpan (opaWord s))).complete .ok .none)

end Sys2Proof.Machine
end

