-- ==== Sys2Proof/Machine/AddressCw.lean ====
section
/-! DEFINITION. The address codeword assembler (43_address_codeword). -/

namespace Sys2Proof.Machine

/-- `addr_field(a)`: 19 address bits and the function code, at bits 31..11 (R480). -/
def addrField (a : Word) : Word :=
  ((((a >>> 3) &&& 0x0007FFFF) <<< 2) ||| Config.funcCode.setWidth 32) <<< 11

/-- `addr_cw(a) = seal(addr_field(a))` (R481). -/
def addrCodeword (span : Config.ParitySpan) (a : Word) : Word := sealWord span (addrField a)

/-- `ADDRCW` (R482). -/
def execAddrcw (s : State) : Host.Outcome State Fault Refusal :=
  let t := addrCodeword Config.paritySpan (opaWord s)
  .next (((s.setAddrCw t).setResult t).complete .ok .none)

end Sys2Proof.Machine
end

