-- ==== Sys2Proof/Machine/MessageCw.lean ====
section
/-! DEFINITION. The message codeword assembler (45_message_codeword). -/

namespace Sys2Proof.Machine

/-- `cur(k)`: the first byte slice `k` reads (R530). -/
def sliceCursor (k : Nat) : Nat := 5 * (k / 2) + 2 * (k % 2)

/-- `load3(c)`: three bytes, big-endian, in bits 31..8 (R531). -/
def load3 (pb : List Byte) (c : Nat) : Word :=
  pbByte pb c ++ pbByte pb (c + 1) ++ pbByte pb (c + 2) ++ 0#8

/-- `f` of R532: the 20 bits of slice `k`, aligned to bits 30..11. -/
def sliceField (pb : List Byte) (k : Nat) : Word :=
  let w := load3 pb (sliceCursor k)
  if k % 2 = 0 then (w &&& 0xFFFFF000) >>> 1 else (w &&& 0x0FFFFF00) <<< 3

/-- `msg_cw(PB, k)`: the slice with the "is message" flag at bit 31, sealed (R532, R533). -/
def msgCodeword (span : Config.ParitySpan) (pb : List Byte) (k : Nat) : Word :=
  sealWord span (0x80000000 ||| sliceField pb k)

/-- `N = P div 3 + 1` (R535). -/
def msgCount (p : Nat) : Nat := p / 3 + 1

/-- The twelve words `CW_BUF` receives: codewords below `n`, zero from `n` on (R538). -/
def msgCodewords (span : Config.ParitySpan) (pb : List Byte) (n : Nat) : List Word :=
  (List.range Config.maxCw).map fun k => if k < n then msgCodeword span pb k else 0x00000000

/-- `MSGCW1 i` (R540). -/
def execMsgcw1 (idx : Nat) (s : State) : Host.Outcome State Fault Refusal :=
  .next ((s.setResult (msgCodeword Config.paritySpan (packBufOperand s) idx)).complete .ok .none)

/-- `MSGCW` (R537, R541). -/
def execMsgcw (s : State) : Host.Outcome State Fault Refusal :=
  let n := msgCount (packLenOperand s)
  if n > s.cwCap.toNat then .next (s.complete .capacity .msgcw)
  else
    .next ((((s.setCwBuf (msgCodewords Config.paritySpan (packBufOperand s) n)).setCwCount n).setResult
      (BitVec.ofNat 32 n)).complete .ok .none)

end Sys2Proof.Machine
end

