-- ==== Sys2Proof/Machine/Bitrev.lean ====
section
/-! DEFINITION. The bit-reversal unit (41_bitrev). -/

namespace Sys2Proof.Machine

/-- `rev8(b)`: bit `i` of the result is bit `7 - i` of `b` (R420). -/
def rev8 (b : Byte) : Byte := ofBits 8 fun i => b.getLsbD (7 - i)

/-- `REV8` (R421). -/
def execRev8 (s : State) : Host.Outcome State Fault Refusal :=
  .next ((s.setResult ((rev8 (opaByte s)).setWidth 32)).complete .ok .none)

end Sys2Proof.Machine
end

