-- ==== Sys2Proof/Machine/Packer.lean ====
section
/-! DEFINITION. The character-to-7-bit packer (44_packer). -/

namespace Sys2Proof.Machine

/-- `s7(c)`: the top seven bits of the reversed character (R500). -/
def s7 (c : Byte) : BitVec 7 := (rev8 c).extractLsb' 1 7

/-- `L = min(MSG_LEN, 40)` (R501). -/
def truncatedLen (len : Nat) : Nat := min len Config.maxMsgLen

/-- `P = ceil(7L / 8)` (R502). -/
def packedLen (len : Nat) : Nat := (7 * truncatedLen len + 7) / 8

/-- `PB[j] <- PB[j] | b` (R503). -/
def orInto (pb : List Byte) (j : Nat) (b : Byte) : List Byte := pb.modify j (· ||| b)

/-- Turn `i` of the packing loop: the group of `MSG[i]` at bit offset `7i`, its spill into the next byte when it
straddles (R503). -/
def packChar (msg pb : List Byte) (i : Nat) : List Byte :=
  let f : Byte := (s7 (msg.getD i 0)).setWidth 8 <<< 1
  let b := 7 * i / 8
  let sh := 7 * i % 8
  let pb' := orInto pb b (f >>> sh)
  if sh ≥ 2 then orInto pb' (b + 1) (f <<< (8 - sh)) else pb'

/-- The packed buffer of `pack(MSG, MSG_LEN)`, all 35 bytes of it (R503). -/
def packedBuf (msg : List Byte) (len : Nat) : List Byte :=
  (List.range (truncatedLen len)).foldl (packChar msg) (List.replicate Config.packBufSize 0x00)

/-- `PACK` (R505, R506). -/
def execPack (s : State) : Host.Outcome State Fault Refusal :=
  if s.msgPresent = false then .next (s.complete .nullInput .none)
  else
    let p := packedLen (msgLenOperand s)
    if p > s.packCap.toNat then .next (s.complete .capacity .pack)
    else
      .next ((((s.setPackBuf (packedBuf (msgOperand s) (msgLenOperand s))).setPackLen p).setResult
        (BitVec.ofNat 32 p)).complete .ok .none)

end Sys2Proof.Machine
end

