-- ==== Sys2Proof/Machine/Frame.lean ====
section
/-! DEFINITION. The frame wrapper (46_frame). -/

namespace Sys2Proof.Machine

/-- `T = 80 + 4N` (R571, R572). -/
def frameLen (n : Nat) : Nat := 80 + 4 * n

/-- `frame(A, CW, N)`: preamble, sync word, address codeword, message codewords (R572). -/
def frame (a : Word) (cws : List Word) (n : Nat) : List Byte :=
  List.replicate Config.preambleLen Config.preambleByte ++ bytesBE Config.syncCw ++ bytesBE a ++
    (cws.take n).flatMap bytesBE

/-- What ENCODE has written when it compares the frame size: `PACK_BUF`, `PACK_LEN`, `CW_BUF`, `CW_COUNT` and
`ADDR_CW` (R571, R574). -/
def State.encodeIntermediates (s : State) : State :=
  let pb := packedBuf (msgOperand s) (msgLenOperand s)
  let p := packedLen (msgLenOperand s)
  let n := msgCount p
  ((((s.setPackBuf pb).setPackLen p).setCwBuf (msgCodewords Config.paritySpan pb n)).setCwCount n).setAddrCw
    (addrCodeword Config.paritySpan (opaWord s))

/-- The frame ENCODE writes (R574). -/
def encodeFrame (s : State) : List Byte :=
  let n := msgCount (packedLen (msgLenOperand s))
  frame (addrCodeword Config.paritySpan (opaWord s))
    (msgCodewords Config.paritySpan (packedBuf (msgOperand s) (msgLenOperand s)) n) n

/-- `ENCODE` (R571, R573, R574). After a frame-stage error `OUT_BUF` is unchanged, as R573 says of this hardware; a
claim about a program may not rest on it (R735; log 10). -/
def execEncode (s : State) : Host.Outcome State Fault Refusal :=
  if s.msgPresent = false ∨ s.outPresent = false then .next (s.complete .nullInput .none)
  else
    let t := frameLen (msgCount (packedLen (msgLenOperand s)))
    if t > s.outCap.toNat then .next ((s.encodeIntermediates.setOutLen 0).complete .capacity .frame)
    else
      .next ((((s.encodeIntermediates.setOutBuf (encodeFrame s)).setOutLen t).setResult
        (BitVec.ofNat 32 t)).complete .ok .none)

end Sys2Proof.Machine
end

