-- ==== Sys2Proof/Machine/Dispatch.lean ====
section
/-! DEFINITION. Which meaning a command has. -/

namespace Sys2Proof.Machine

/-- One command, run to its completion (R401, R402). -/
def exec (i : Instr) (s : State) : Host.Outcome State Fault Refusal :=
  match i with
  | .nop => Sys2Proof.Machine.execNop s
  | .rev8 => Sys2Proof.Machine.execRev8 s
  | .bch => Sys2Proof.Machine.execBch s
  | .par => Sys2Proof.Machine.execPar s
  | .sealCmd => Sys2Proof.Machine.execSeal s
  | .addrcw => Sys2Proof.Machine.execAddrcw s
  | .pack => Sys2Proof.Machine.execPack s
  | .msgcw1 idx => Sys2Proof.Machine.execMsgcw1 idx s
  | .msgcw => Sys2Proof.Machine.execMsgcw s
  | .encode => Sys2Proof.Machine.execEncode s

end Sys2Proof.Machine
end

