-- ==== Sys2Proof/Machine/Bus.lean ====
section
/-! DEFINITION. The host's accesses and the platform's reset: decoding a write to `CMD`, the two kinds of access, and
one event a step (00_scope R16; 10_state R103; 20_memory R203 to R210; 70_reset R701). -/

namespace Sys2Proof.Machine

/-- A 4-byte write of `v` to `CMD`: the command `v` selects runs to its end, or the error of an illegal word is
reported in `STATUS` (R103, R301, R610). -/
def writeCmd (hasFrame : Bool) (v : Word) (s : State) : Host.Outcome State Fault Refusal :=
  match decodeWith hasFrame v with
  | .ok i => exec i s
  | .error _ => .next s.illegalCommand

/-- A legal 4-byte write (R206, R207, R208). -/
def writeWord (off : Nat) (v : Word) (s : State) : Host.Outcome State Fault Refusal :=
  match regAt off with
  | some .cmd => writeCmd Config.hasFrame v s
  | some r => .next (writeReg r v s)
  | none => .next (writeWindowWord off v s)

/-- A host read (R203, R204, R210). -/
def serveRead (off size : Nat) (s : State) : Host.Outcome State Fault Refusal :=
  if legalAccess off size then
    .next (s.respond (if size = 4 then readWord off s else (readWindowByte off s).setWidth 32))
  else .fault (.busError off size false)

/-- A host write (R203, R204, R210). -/
def serveWrite (off size : Nat) (v : Word) (s : State) : Host.Outcome State Fault Refusal :=
  if legalAccess off size then
    if size = 4 then writeWord off v s else .next (writeWindowByte off (v.setWidth 8) s)
  else .fault (.busError off size true)

/-- One event at the block's ports (R16). -/
def serve (e : BusEvent) (s : State) : Host.Outcome State Fault Refusal :=
  match e with
  | .read off size => serveRead off size s
  | .write off size v => serveWrite off size v s
  | .reset => .next s.resetBlock

/-- The next event in bus order takes its whole effect (R209, R214); with none left the block idles and holds all
state (R625; log 2). -/
def busStep (s : State) : Host.Outcome State Fault Refusal :=
  match s.pending with
  | [] => .next s
  | e :: rest => serve e (s.accept rest)

/-! ## The host's assembly (30_encoding R310, R311) -/

/-- `wr OFF, V`. -/
def asmWr (off : Nat) (v : Word) : BusEvent := .write off 4 v

/-- `wrb OFF, B`. -/
def asmWrb (off : Nat) (b : Byte) : BusEvent := .write off 1 (b.setWidth 32)

/-- `rd OFF`. -/
def asmRd (off : Nat) : BusEvent := .read off 4

/-- `rdb OFF`. -/
def asmRdb (off : Nat) : BusEvent := .read off 1

/-- A command mnemonic: one write of its word to `CMD`. -/
def asmCommand (i : Instr) : BusEvent := asmWr 0x004 (encode i)

/-- `opa V`. -/
def asmOpa (v : Word) : BusEvent := asmWr 0x00C v

/-- `text "s"`, for at most 255 characters: the first 40 into `MSG`, then the whole length into `MSG_LEN`. -/
def asmText (chars : List Byte) : List BusEvent :=
  (chars.take Config.maxMsgLen).mapIdx (fun i c => asmWrb (Config.msgBase + i) c) ++
    [asmWr 0x014 (BitVec.ofNat 32 chars.length)]

/-- `ctrl m, o`. -/
def asmCtrl (m o : Bool) : BusEvent :=
  asmWr 0x000 (((BitVec.ofBool o).setWidth 32 <<< 1) ||| (BitVec.ofBool m).setWidth 32)

/-- `clrsticky`. -/
def asmClrsticky : BusEvent := asmWr 0x008 0x00000100

end Sys2Proof.Machine
end

