-- ==== Sys2Proof/Machine/Step.lean ====
section
/-! DEFINITION. One step of the machine: one event at the block's ports (00_scope R16). -/

namespace Sys2Proof.Machine

/-- One step (R16). -/
def step (s : State) : Host.Outcome State Fault Refusal := busStep s

/-- `s` with the command word `w` as the host's next access: a 4-byte write of it to `CMD`, ahead of the events
already pending (R103, R300; log 1). -/
def State.withFetchWord (s : State) (nbits w : Nat) : State :=
  { s with pending := asmWr 0x004 (BitVec.ofNat 32 (w % 2 ^ nbits)) :: s.pending }

end Sys2Proof.Machine
end

