-- ==== Sys2Proof/Safety.lean ====
section
/-! DEFINITION. The terms the claims use: which events the bus may carry, the packed bitstream and the frame as claims
read them, and the invariants of the block. None of it is part of the machine. -/

namespace Sys2Proof.Machine

/-- An event that raises no bus error (R203, R210). -/
def BusEvent.legal : BusEvent → Bool
  | .read off size => legalAccess off size
  | .write off size _ => legalAccess off size
  | .reset => true

/-- A safe run: no event still to come raises a bus error. -/
def State.busLegal (s : State) : Prop := ∀ e ∈ s.pending, e.legal = true

/-- `bit(n)` of a packed buffer: bit `7 - (n mod 8)` of byte `n div 8`, zero beyond the buffer (R212, R504). -/
def streamBit (pb : List Byte) (n : Nat) : Bool := (pb.getD (n / 8) 0).getLsbD (7 - n % 8)

/-- `bit(n)` of `PACK_BUF`, zero beyond its 35 bytes (R112, R531). -/
def State.packedBit (s : State) (n : Nat) : Bool :=
  if n < 280 then (s.packBuf (n / 8)).getLsbD (7 - n % 8) else false

/-- `unpack(PB, L)[i]` (R507), which no hardware computes. -/
def unpackChar (pb : List Byte) (i : Nat) : Byte :=
  ofBits 8 fun j => decide (j < 7) && streamBit pb (7 * i + j)

/-- Four bytes of `OUT_BUF`, read big-endian (R211). -/
def State.outWord (s : State) (j : Nat) : Word :=
  s.outBuf j ++ s.outBuf (j + 1) ++ s.outBuf (j + 2) ++ s.outBuf (j + 3)

/-- A word that passes both codeword checks of R457 at this hardware's span. -/
def goodCodeword (w : Word) : Prop := syndromeOk w = true ∧ parityOk Config.paritySpan w = true

/-- The buffer store is in canonical form and lists bytes of the four buffers only. -/
def StorageInv (s : State) : Prop := s.mem.wf ∧ ∀ c ∈ s.mem, isStored c.1 = true

/-- The ranges of the three lengths (R100). -/
def LengthInv (s : State) : Prop :=
  s.packLen.toNat ≤ 35 ∧ s.cwCount.toNat ≤ 12 ∧
    (s.outLen.toNat = 0 ∨ (84 ≤ s.outLen.toNat ∧ s.outLen.toNat ≤ 128 ∧ s.outLen.toNat % 4 = 0))

/-- `STAGE` names a stage exactly when `ERR` is CAPACITY (R105, R600). -/
def StatusInv (s : State) : Prop := s.stage ≠ .none ↔ s.err = .capacity

/-- Beyond `PACK_LEN` and `CW_COUNT` the buffers hold zeros (R503, R538). -/
def TailInv (s : State) : Prop :=
  (∀ j, s.packLen.toNat ≤ j → j < 35 → s.packBuf j = 0) ∧
    ∀ k, s.cwCount.toNat ≤ k → k < 12 → s.cwBuf k = 0

/-- Every codeword the block's registers show is one: `ADDR_CW`, and the first `CW_COUNT` words of `CW_BUF`, each with its
"is message" flag (R457, R533). Nothing is said of `OUT_BUF`, on which a claim may not rest after a failed ENCODE (R735). -/
def CodewordInv (s : State) : Prop :=
  goodCodeword s.addrCw ∧
    ∀ k, k < s.cwCount.toNat → k < 12 → goodCodeword (s.cwBuf k) ∧ (s.cwBuf k).getLsbD 31 = true

end Sys2Proof.Machine
end

