-- ==== Sys2Proof/Certificates/Slice0/Obligations.lean ====
section
/-! DEFINITION. The statements for the provers. Each docstring names the rules of spec/ it formalises. A frame is written
as an equation `t = { s with … }` that names every field that may change; memory is compared one byte at a time, through
`Memory.read`. -/

open Sys2Proof Sys2Proof.Machine

/-! ## Terms of the statements -/

/-- A value read as a polynomial over GF(2), bit `i` the coefficient of x^i (R440). -/
noncomputable def Sys2Proof.Machine.gf2Poly {n : Nat} (v : BitVec n) : Polynomial (ZMod 2) :=
  ∑ i ∈ Finset.range n, if v.getLsbD i then Polynomial.X ^ i else 0

/-- The next access is a 4-byte read of `off`, and the step returns `v` and changes nothing else in the block. -/
def Sys2Proof.Machine.reads (n off : Nat) (s : State) (v : Word) : Prop :=
  ∀ rest, step { s with pending := .read off n :: rest } = .next { s with pending := rest, readData := some v }

/-- The next access is a write of `v` to `off`, and the step leaves exactly `t` of the block. -/
def Sys2Proof.Machine.writes (n off : Nat) (v : Word) (s t : State) : Prop :=
  ∀ rest, step { s with pending := .write off n v :: rest } =
    .next { t with pending := rest, readData := Option.none }

/-! ## Reset, steps and the bus -/

/-- After reset every register, constant and buffer byte has the value of R700's table. `CMD` has no storage. The two
fields the table does not name, `pending` and `readData`, are the model's own (log 1, log 3), and nothing is said of
them here. -/
def Obligations.ResetStateHasTheTabledValues : Prop :=
  ctrlWord State.reset = 0 ∧ statusWord State.reset = 0 ∧ State.reset.opa = 0 ∧ State.reset.result = 0 ∧
    State.reset.msgLen = 0 ∧ State.reset.packCap = 0x23 ∧ State.reset.cwCap = 0x0C ∧ State.reset.outCap = 0x80 ∧
    State.reset.packLen = 0 ∧ State.reset.cwCount = 0 ∧ State.reset.outLen = 0 ∧ State.reset.addrCw = 0 ∧
    readReg .sync State.reset = 0x7CD215D8 ∧ readReg .idle State.reset = 0x7A89C197 ∧
    (∀ i, i < 40 → State.reset.msg i = 0) ∧ (∀ j, j < 35 → State.reset.packBuf j = 0) ∧
    (∀ k, k < 12 → State.reset.cwBuf k = 0) ∧ ∀ j, j < 128 → State.reset.outBuf j = 0

/-- The platform's reset input puts the block into the reset state, whatever state it was in; the accesses still to come
stay on the bus (the model's choice, log 11). -/
def Obligations.PlatformResetGivesTheResetState : Prop :=
  ∀ s rest, s.pending = .reset :: rest → step s = .next { State.reset with pending := rest }

/-- A 4-byte write of a command's word to `CMD` runs exactly that command, in the one step of the access; and the step
after `withFetchWord` of a well-formed command's word is that command's `exec`. The step takes the access off the bus
and clears the data of the read before it (the model's own fields, log 1, log 3); there is no program counter to move. -/
def Obligations.StepRunsTheDecodedCommand : Prop :=
  (∀ s v i rest, s.pending = .write 0x004 4 v :: rest → decode v = .ok i →
    step s = exec i { s with pending := rest, readData := Option.none }) ∧
  ∀ (s : State) (i : Instr), i.wf = true →
    step (s.withFetchWord 32 (encode i).toNat) = exec i { s with readData := Option.none }

/-- A word that is no command sets `STATUS` to ILLEGAL_CMD, NONE, sticky, and changes nothing else. The four ways a word
is no command are those of R610, for a block with and without the frame assembler. -/
def Obligations.IllegalWordWritesStatusOnly : Prop :=
  ∀ hasFrame v s,
    (rsv0Field v ≠ 0 ∨ rsv1Field v ≠ 0 ∨ 0xA ≤ (opField v).toNat ∨ ((opField v).toNat = 9 ∧ hasFrame = false) ∨
      (idxField v ≠ 0 ∧ (opField v).toNat ≠ 7)) →
    writeCmd hasFrame v s = .next { s with err := .illegalCmd, stage := .none, sticky := true }

/-- Every command is total and faults never (R402: no command "fails to terminate"). -/
def Obligations.EveryCommandCompletes : Prop :=
  ∀ i s, ∃ t, exec i s = .next t

/-- The legality of a host access, written out as R203 gives it, decides between a bus error and a next state, for reads
and for writes. Three points of it are the model's and not the rules': an offset of 0x200 or more faults, where R201 says
such an access does not reach the block (log 5); the fault ends the run, so there is no state after it (log 4); and it
carries the access's offset, size and direction (log 4). -/
def Obligations.BusErrorExactlyOnIllegalAccess : Prop :=
  ∀ (s : State) (off n : Nat) rest,
    let legal := (n = 4 ∧ off % 4 = 0 ∧ off < 0x200) ∨
      (n = 1 ∧ ((0x040 ≤ off ∧ off < 0x068) ∨ (0x080 ≤ off ∧ off < 0x0A4) ∨ (0x100 ≤ off ∧ off < 0x180)))
    (s.pending = .read off n :: rest →
      (legal → ∃ t, step s = .next t) ∧ (¬ legal → step s = .fault (.busError off n false))) ∧
    ∀ v, s.pending = .write off n v :: rest →
      (legal → ∃ t, step s = .next t) ∧ (¬ legal → step s = .fault (.busError off n true))

/-- No read changes anything of the block: only the access leaves the bus and the data returned appear, both the model's
own fields. -/
def Obligations.ReadsHaveNoSideEffect : Prop :=
  ∀ s off n rest t, s.pending = .read off n :: rest → step s = .next t →
    t = { s with pending := rest, readData := t.readData }

/-- Each step takes exactly the next event off the bus: accesses take effect one at a time, in bus order; with no event
to come the block idles and holds all state (R214, R625; that the bus is a list in State and that the idle machine steps
to itself are the model's own choices, log 1, log 2). -/
def Obligations.EachStepTakesTheNextEvent : Prop :=
  (∀ s t, step s = .next t → t.pending = s.pending.tail) ∧ ∀ s, s.pending = [] → step s = .next s

/-- A bus that carries only legal accesses and resets never faults, and stays such a bus. That the accesses still to come
are a list in State, of which it says that it stays legal, and that a step with none to come answers the same state, are
the model's own choices (log 1, log 2); that a reset is an event of that list too (log 11). -/
def Obligations.LegalBusNeverFaults : Prop :=
  ∀ s, s.busLegal → ∃ t, step s = .next t ∧ t.busLegal

/-- A host address lies in the window exactly when its bits 31..9 select it, and then its offset is its bits 8..0: no
bit above bit 8 is decoded. -/
def Obligations.OffsetIsTheLowNineAddressBits : Prop :=
  ∀ addr : Word,
    (hostOffset Config.blockBase addr < 0x200 ↔ addr.extractLsb' 9 23 = Config.blockWindow) ∧
    (addr.extractLsb' 9 23 = Config.blockWindow →
      hostOffset Config.blockBase addr = (addr.extractLsb' 0 9).toNat)

/-! ## The register window -/

/-- What a 4-byte read of each of the 15 word registers returns (fields zero-extended, `CMD` zero, `SYNC` and `IDLE`
constant, `CTRL` and `STATUS` as their fields lie), and what a 4-byte write to each fully writable register stores: the
field's bits, the rest discarded, nothing else changed (R206). The write to `STATUS` is StatusWriteOnlyClearsSticky, the
write to `CMD` StepRunsTheDecodedCommand. -/
def Obligations.RegisterAccessesFollowTheMap : Prop :=
  ∀ s,
    (reads 4 0x000 s (BitVec.ofNat 32 (s.msgPresent.toNat + 2 * s.outPresent.toNat)) ∧
      reads 4 0x004 s 0 ∧
      reads 4 0x008 s (BitVec.ofNat 32
        ((match s.err with | .ok => 0 | .capacity => 1 | .nullInput => 2 | .illegalCmd => 3) +
          16 * (match s.stage with | .none => 0 | .pack => 1 | .msgcw => 2 | .frame => 3) + 256 * s.sticky.toNat)) ∧
      reads 4 0x00C s s.opa ∧ reads 4 0x010 s s.result ∧
      reads 4 0x014 s (s.msgLen.setWidth 32) ∧ reads 4 0x018 s (s.packCap.setWidth 32) ∧
      reads 4 0x01C s (s.cwCap.setWidth 32) ∧ reads 4 0x020 s (s.outCap.setWidth 32) ∧
      reads 4 0x024 s (s.packLen.setWidth 32) ∧ reads 4 0x028 s (s.cwCount.setWidth 32) ∧
      reads 4 0x02C s (s.outLen.setWidth 32) ∧ reads 4 0x030 s s.addrCw ∧
      reads 4 0x034 s 0x7CD215D8 ∧ reads 4 0x038 s 0x7A89C197) ∧
    ∀ v,
      writes 4 0x000 v s { s with msgPresent := v.getLsbD 0, outPresent := v.getLsbD 1 } ∧
      writes 4 0x00C v s { s with opa := v } ∧
      writes 4 0x014 v s { s with msgLen := v.setWidth 8 } ∧
      writes 4 0x018 v s { s with packCap := v.setWidth 8 } ∧
      writes 4 0x01C v s { s with cwCap := v.setWidth 8 } ∧
      writes 4 0x020 v s { s with outCap := v.setWidth 8 }

/-- What reads of the buffer windows return: a byte read its byte, a 4-byte read of a byte window its four bytes
little-endian, a 4-byte read of `CW_BUF` the codeword itself, and the reserved byte 0x0A3 zero (the top byte of the
last word of `PACK_BUF` too). In the 1-byte clauses only bits 7..0 of the data are the spec's: that the bits above them are
zero is the model's own choice (log 3). -/
def Obligations.BufferReadsAreLittleEndian : Prop :=
  ∀ s,
    (∀ i, i < 40 → reads 1 (0x040 + i) s ((s.msg i).setWidth 32)) ∧
    (∀ j, j < 35 → reads 1 (0x080 + j) s ((s.packBuf j).setWidth 32)) ∧
    reads 1 0x0A3 s 0 ∧
    (∀ j, j < 128 → reads 1 (0x100 + j) s ((s.outBuf j).setWidth 32)) ∧
    (∀ i, i < 10 → reads 4 (0x040 + 4 * i) s
      (s.msg (4 * i + 3) ++ s.msg (4 * i + 2) ++ s.msg (4 * i + 1) ++ s.msg (4 * i))) ∧
    (∀ j, j < 8 → reads 4 (0x080 + 4 * j) s
      (s.packBuf (4 * j + 3) ++ s.packBuf (4 * j + 2) ++ s.packBuf (4 * j + 1) ++ s.packBuf (4 * j))) ∧
    reads 4 0x0A0 s (0#8 ++ s.packBuf 34 ++ s.packBuf 33 ++ s.packBuf 32) ∧
    (∀ k, k < 12 → reads 4 (0x0C0 + 4 * k) s (s.cwBuf k)) ∧
    ∀ j, j < 32 → reads 4 (0x100 + 4 * j) s
      (s.outBuf (4 * j + 3) ++ s.outBuf (4 * j + 2) ++ s.outBuf (4 * j + 1) ++ s.outBuf (4 * j))

/-- The bits of a word register that are not reserved (R100, R104 to R108). `CMD` stores none. -/
def Sys2Proof.Machine.fieldMask : WordReg → Word
  | .ctrl => 0x00000003
  | .cmd => 0x00000000
  | .status => 0x00000137
  | .msgLen | .packCap | .cwCap | .outCap | .packLen | .cwCount | .outLen => 0x000000FF
  | .opa | .result | .addrCw | .sync | .idle => 0xFFFFFFFF

/-- Reserved offsets read zero and ignore writes, byte 0x0A3 under both sizes (as the top byte of the word at 0x0A0);
reserved bits inside a register read zero and make no difference to a write (R205). -/
def Obligations.ReservedOffsetsAndBitsReadZeroIgnoreWrites : Prop :=
  ∀ s,
    (∀ off v, off % 4 = 0 ∧ (off = 0x03C ∨ (0x068 ≤ off ∧ off < 0x080) ∨ (0x0A4 ≤ off ∧ off < 0x0C0) ∨
        (0x0F0 ≤ off ∧ off < 0x100) ∨ (0x180 ≤ off ∧ off < 0x200)) →
      reads 4 off s 0 ∧ writes 4 off v s s) ∧
    reads 1 0x0A3 s 0 ∧ (∀ w, reads 4 0x0A0 s w → w.extractLsb' 24 8 = 0) ∧
    (∀ v, writes 1 0x0A3 v s s ∧ writes 4 0x0A0 v s s) ∧
    (∀ r w, reads 4 (WordReg.offset r) s w → w &&& ~~~ fieldMask r = 0) ∧
    ∀ r v w t, r ≠ .cmd → v &&& fieldMask r = w &&& fieldMask r →
      writes 4 (WordReg.offset r) v s t → writes 4 (WordReg.offset r) w s t

/-- A 4-byte write to `STATUS` clears `STICKY` when bit 8 is 1 and has no other effect; `ERR` and `STAGE` change only in
a step that writes `CMD` or resets the block (R603). -/
def Obligations.StatusWriteOnlyClearsSticky : Prop :=
  (∀ s v, writes 4 0x008 v s { s with sticky := if v.getLsbD 8 then false else s.sticky }) ∧
    ∀ s t, step s = .next t → (t.err ≠ s.err ∨ t.stage ≠ s.stage) →
      ∃ e rest, s.pending = e :: rest ∧ (e = .reset ∨ ∃ v, e = .write 0x004 4 v)

/-- Writes to read-only state are ignored without error: the seven read-only registers, every legal write to the
`PACK_BUF`, `CW_BUF` and `OUT_BUF` windows, of either size, and the read-only fields of `STATUS`; a read of `CMD` returns
0 (R207). -/
def Obligations.ReadOnlyStateIgnoresWrites : Prop :=
  ∀ s off v,
    (off = 0x010 ∨ off = 0x024 ∨ off = 0x028 ∨ off = 0x02C ∨ off = 0x030 ∨ off = 0x034 ∨ off = 0x038 →
      writes 4 off v s s) ∧
    (off % 4 = 0 → (0x080 ≤ off ∧ off < 0x0A4) ∨ (0x0C0 ≤ off ∧ off < 0x0F0) ∨ (0x100 ≤ off ∧ off < 0x180) →
      writes 4 off v s s) ∧
    ((0x080 ≤ off ∧ off < 0x0A4) ∨ (0x100 ≤ off ∧ off < 0x180) → writes 1 off v s s) ∧
    (∃ t : State, writes 4 0x008 v s t ∧ t.err = s.err ∧ t.stage = s.stage) ∧
    reads 4 0x004 s 0

/-- A write to `MSG` stores its byte, or its four bytes little-endian, and changes no other byte and no register. The
bytes stored to are those from the access's own offset on. That a 1-byte write takes its byte from bits 7..0 of a 32-bit
value is the model's reading (log 16). -/
def Obligations.MessageWritesStoreTheirBytes : Prop :=
  ∀ s v,
    (∀ i, i < 40 → ∃ t : State, writes 1 (0x040 + i) v s t ∧ t = { s with mem := t.mem } ∧
      t.msg i = v.extractLsb' 0 8 ∧ ∀ a, a ≠ 0x040 + i → t.mem.read a = s.mem.read a) ∧
    ∀ i, i < 10 → ∃ t : State, writes 4 (0x040 + 4 * i) v s t ∧ t = { s with mem := t.mem } ∧
      t.msg (4 * i) = v.extractLsb' 0 8 ∧ t.msg (4 * i + 1) = v.extractLsb' 8 8 ∧
      t.msg (4 * i + 2) = v.extractLsb' 16 8 ∧ t.msg (4 * i + 3) = v.extractLsb' 24 8 ∧
      ∀ a, (a < 0x040 + 4 * i ∨ 0x044 + 4 * i ≤ a) → t.mem.read a = s.mem.read a

/-- Only a write to `CMD` and a reset change what commands produce: after any other access, `RESULT`, `ADDR_CW`, the
three lengths, `ERR`, `STAGE`, `PACK_BUF`, `CW_BUF` and `OUT_BUF` are as they were. So a write to `MSG` or `MSG_LEN`
leaves the packed data stale (R731, which the spec marks as derived). -/
def Obligations.OtherAccessesLeaveResultsStale : Prop :=
  ∀ s e rest t, s.pending = e :: rest → e ≠ .reset → (∀ v, e ≠ .write 0x004 4 v) → step s = .next t →
    t.result = s.result ∧ t.addrCw = s.addrCw ∧ t.packLen = s.packLen ∧ t.cwCount = s.cwCount ∧
    t.outLen = s.outLen ∧ t.err = s.err ∧ t.stage = s.stage ∧
    (∀ j, j < 35 → t.packBuf j = s.packBuf j) ∧ (∀ k, k < 12 → t.cwBuf k = s.cwBuf k) ∧
    ∀ j, j < 128 → t.outBuf j = s.outBuf j

/-! ## Encoding -/

/-- A word selects a command exactly when it is one of those listed, and then that one command, for a block with and
without the frame assembler; a write of it to `CMD` runs that command, and a write of any other word changes `STATUS`
only and never runs as a no-op (an inference: R301 and R303 say which words are legal, and the list of them is R302's, which
the spec marks as derived from R301). -/
def Obligations.DecoderAcceptsExactlyTheLegalWords : Prop :=
  (∀ hasFrame v i, decodeWith hasFrame v = .ok i ↔
    (v = 0x00000000 ∧ i = .nop) ∨ (v = 0x00000001 ∧ i = .rev8) ∨ (v = 0x00000002 ∧ i = .bch) ∨
    (v = 0x00000003 ∧ i = .par) ∨ (v = 0x00000004 ∧ i = .sealCmd) ∨ (v = 0x00000005 ∧ i = .addrcw) ∨
    (v = 0x00000006 ∧ i = .pack) ∨
    (∃ k, k < 256 ∧ v = 0x00000007 ||| (BitVec.ofNat 32 k <<< 8) ∧ i = .msgcw1 k) ∨
    (v = 0x00000008 ∧ i = .msgcw) ∨ (hasFrame = true ∧ v = 0x00000009 ∧ i = .encode)) ∧
  (∀ hasFrame v i s, decodeWith hasFrame v = .ok i → writeCmd hasFrame v s = exec i s) ∧
  ∀ hasFrame v s, (∀ i, decodeWith hasFrame v ≠ .ok i) →
    writeCmd hasFrame v s = .next { s with err := .illegalCmd, stage := .none, sticky := true }

/-- DECODE AND ENCODE AGREE, both ways, for every command of a block with or without the frame assembler and every slice
index the encoding admits. -/
def Obligations.DecodeAndEncodeAgree : Prop :=
  (∀ hasFrame i, Instr.wfWith hasFrame i = true → decodeWith hasFrame (encode i) = .ok i) ∧
    ∀ hasFrame v i, decodeWith hasFrame v = .ok i → Instr.wfWith hasFrame i = true ∧ encode i = v

/-- A few words written out from the spec's encodings decode to the commands they stand for, and a few words one bit
away from them do not. -/
def Obligations.WrittenOutWordsDecode : Prop :=
  decode 0x00000000 = .ok .nop ∧ decode 0x00000001 = .ok .rev8 ∧ decode 0x00000004 = .ok .sealCmd ∧
    decode 0x00000107 = .ok (.msgcw1 1) ∧ decode 0x0000FF07 = .ok (.msgcw1 255) ∧ decode 0x00000009 = .ok .encode ∧
    decode 0x0000000A = .error .reservedOp ∧ decode 0x00000010 = .error .reservedBits ∧
    decode 0x00010002 = .error .reservedBits ∧ decode 0x00000106 = .error .idxNotZero

/-- This hardware has the frame assembler. Without it ENCODE does not exist: its word is illegal, no word selects it, and
no command of such a block writes `OUT_BUF`, `OUT_LEN`, `OUT_CAP` or `CTRL.OUT_PRESENT` (R570). -/
def Obligations.WithoutFrameEncodeDoesNotExist : Prop :=
  Config.hasFrame = true ∧
  (∀ s, writeCmd false 0x00000009 s = .next { s with err := .illegalCmd, stage := .none, sticky := true }) ∧
  (∀ v, decodeWith false v ≠ .ok .encode) ∧
  ∀ v s t, writeCmd false v s = .next t →
    t.outLen = s.outLen ∧ t.outCap = s.outCap ∧ t.outPresent = s.outPresent ∧
      ∀ j, j < 128 → t.outBuf j = s.outBuf j

/-- The host's assembly: each mnemonic is one 4-byte write of its word to `CMD`, and `opa`, `text`, `ctrl` and
`clrsticky` expand to their accesses, `text` storing the first 40 characters in order and then the whole length (R311). -/
def Obligations.AssemblyExpandsToItsAccesses : Prop :=
  (asmCommand .nop = .write 0x004 4 0x00000000 ∧ asmCommand .rev8 = .write 0x004 4 0x00000001 ∧
    asmCommand .bch = .write 0x004 4 0x00000002 ∧ asmCommand .par = .write 0x004 4 0x00000003 ∧
    asmCommand .sealCmd = .write 0x004 4 0x00000004 ∧ asmCommand .addrcw = .write 0x004 4 0x00000005 ∧
    asmCommand .pack = .write 0x004 4 0x00000006 ∧
    (∀ i, i < 256 → asmCommand (.msgcw1 i) = .write 0x004 4 (0x00000007 ||| (BitVec.ofNat 32 i <<< 8))) ∧
    asmCommand .msgcw = .write 0x004 4 0x00000008 ∧ asmCommand .encode = .write 0x004 4 0x00000009) ∧
  (∀ v, asmOpa v = .write 0x00C 4 v) ∧
  (∀ m o : Bool, asmCtrl m o = .write 0x000 4 (BitVec.ofNat 32 (2 * o.toNat + m.toNat))) ∧
  asmClrsticky = .write 0x008 4 0x00000100 ∧
  ∀ chars : List Byte, chars.length ≤ 255 →
    (asmText chars).length = min chars.length 40 + 1 ∧
    (∀ i, i < min chars.length 40 →
      (asmText chars)[i]? = some (.write (0x040 + i) 1 ((chars.getD i 0).setWidth 32))) ∧
    (asmText chars)[min chars.length 40]? = some (.write 0x014 4 (BitVec.ofNat 32 chars.length))

/-! ## The commands, one by one: completion, result, errors, frame -/

/-- NOP completes with OK, NONE; `STICKY` and everything else are unchanged. -/
def Obligations.NopCompletes : Prop :=
  decode 0x00000000 = .ok .nop ∧ ∀ s, exec .nop s = .next { s with err := .ok, stage := .none }

/-- REV8 completes: `RESULT` bit `i` is `OPA` bit `7 - i`, bits 31..8 are zero, and nothing else changes but `ERR` and
`STAGE`. -/
def Obligations.Rev8ReversesTheLowByte : Prop :=
  decode 0x00000001 = .ok .rev8 ∧
  ∀ s, ∃ t, exec .rev8 s = .next t ∧ t = { s with result := t.result, err := .ok, stage := .none } ∧
    (∀ i, i < 8 → t.result.getLsbD i = s.opa.getLsbD (7 - i)) ∧ ∀ i, 8 ≤ i → t.result.getLsbD i = false

/-- BCH completes: `RESULT` is `bch(OPA)`; nothing else changes but `ERR` and `STAGE`. -/
def Obligations.BchCommandEncodesOpa : Prop :=
  decode 0x00000002 = .ok .bch ∧
  ∀ s, exec .bch s = .next { s with result := bch s.opa, err := .ok, stage := .none }

/-- `par(w)` sets bit 0 when the span (bits 30..1, or bits 31..1 under the other parameter value) holds an odd number of
ones, and keeps every other bit; PAR completes with `par(OPA)` at the span 30..1 in `RESULT`, and nothing else changes but
`ERR` and `STAGE` (R450, R451). -/
def Obligations.ParCommandSetsTheParityBit : Prop :=
  Config.paritySpan = .b30_1 ∧
  (∀ span (w : Word), (∀ i, 1 ≤ i → (par span w).getLsbD i = w.getLsbD i) ∧
    (par span w).getLsbD 0 = (w.getLsbD 0 || decide (((List.range
      (match span with | .b30_1 => 30 | .b31_1 => 31)).countP fun i => w.getLsbD (1 + i)) % 2 = 1))) ∧
  decode 0x00000003 = .ok .par ∧
  ∀ s, exec .par s = .next { s with result := par .b30_1 s.opa, err := .ok, stage := .none }

/-- SEAL completes: `RESULT` is `par(bch(OPA))`; nothing else changes but `ERR` and `STAGE`. -/
def Obligations.SealCommandIsBchThenPar : Prop :=
  decode 0x00000004 = .ok .sealCmd ∧
  ∀ s, exec .sealCmd s = .next { s with result := par .b30_1 (bch s.opa), err := .ok, stage := .none }

/-- ADDRCW completes: `ADDR_CW` and `RESULT` are `addr_cw(OPA)`; nothing else changes but `ERR` and `STAGE`. -/
def Obligations.AddrcwBuildsTheAddressCodeword : Prop :=
  decode 0x00000005 = .ok .addrcw ∧
  ∀ s, exec .addrcw s = .next { s with
    addrCw := par .b30_1 (bch (((((s.opa >>> 3) &&& 0x7FFFF) <<< 2) ||| 0b11) <<< 11))
    result := par .b30_1 (bch (((((s.opa >>> 3) &&& 0x7FFFF) <<< 2) ||| 0b11) <<< 11))
    err := .ok, stage := .none }

/-- PACK: NULL_INPUT without a message; CAPACITY, PACK when the packed size exceeds `PACK_CAP`; otherwise it completes,
all 35 bytes of `PACK_BUF` are those of `pack(MSG, MSG_LEN)`, `PACK_LEN` and `RESULT` are the packed size, and nothing
else changes, no byte outside `PACK_BUF` among it (R506). What `pack` computes, bit by bit:
PackedBitstreamClosedForm. -/
def Obligations.PackCommandPacksTheMessage : Prop :=
  decode 0x00000006 = .ok .pack ∧
  ∀ s : State,
    let p := (7 * min s.msgLen.toNat 40 + 7) / 8
    (s.msgPresent = false →
      exec .pack s = .next { s with err := .nullInput, stage := .none, sticky := true }) ∧
    (s.msgPresent = true → s.packCap.toNat < p →
      exec .pack s = .next { s with err := .capacity, stage := .pack, sticky := true }) ∧
    (s.msgPresent = true → p ≤ s.packCap.toNat →
      ∃ t, exec .pack s = .next t ∧
        t = { s with mem := t.mem, packLen := BitVec.ofNat 8 p, result := BitVec.ofNat 32 p, err := .ok
                     stage := .none } ∧
        (∀ j, j < 35 → t.packBuf j = (packedBuf ((List.range 40).map s.msg) s.msgLen.toNat).getD j 0) ∧
        ∀ a, (a < 0x080 ∨ 0x0A3 ≤ a) → t.mem.read a = s.mem.read a)

/-- MSGCW1 completes for every index: `RESULT` is the codeword of its slice of `PACK_BUF`; nothing else changes but `ERR`
and `STAGE`. (What a slice's codeword is: MessageCodewordCarriesItsSlice.) -/
def Obligations.Msgcw1ComputesOneSlice : Prop :=
  (∀ k, k < 256 → decode (0x00000007 ||| (BitVec.ofNat 32 k <<< 8)) = .ok (.msgcw1 k)) ∧
  ∀ k s, exec (.msgcw1 k) s = .next { s with
    result := msgCodeword .b30_1 ((List.range 35).map s.packBuf) k, err := .ok, stage := .none }

/-- MSGCW: CAPACITY, MSGCW when the count exceeds `CW_CAP`; otherwise it completes, all twelve words of `CW_BUF` are
written, `CW_COUNT` and `RESULT` are the count, and nothing else changes, no byte outside `CW_BUF` among it. -/
def Obligations.MsgcwBuildsAllCodewords : Prop :=
  decode 0x00000008 = .ok .msgcw ∧
  ∀ s : State,
    let n := s.packLen.toNat / 3 + 1
    (s.cwCap.toNat < n →
      exec .msgcw s = .next { s with err := .capacity, stage := .msgcw, sticky := true }) ∧
    (n ≤ s.cwCap.toNat →
      ∃ t, exec .msgcw s = .next t ∧
        t = { s with mem := t.mem, cwCount := BitVec.ofNat 8 n, result := BitVec.ofNat 32 n, err := .ok
                     stage := .none } ∧
        (∀ k, k < 12 →
          t.cwBuf k = if k < n then msgCodeword .b30_1 ((List.range 35).map s.packBuf) k else 0) ∧
        ∀ a, (a < 0x0C0 ∨ 0x0F0 ≤ a) → t.mem.read a = s.mem.read a)

/-- ENCODE, all of it: NULL_INPUT without a message or an output buffer; otherwise `PACK_BUF`, `PACK_LEN`, `CW_BUF`,
`CW_COUNT` and `ADDR_CW` are written; then CAPACITY, FRAME with `OUT_LEN` zero when the frame exceeds `OUT_CAP`, or the
frame in `OUT_BUF`, `OUT_LEN` and `RESULT` its length (R571 to R574). The last clause of each case says which bytes of
memory are as before. That `OUT_BUF` is unchanged after a frame-stage error is what R573 and R574 say of this hardware:
no claim about a program may rest on it (R735, log 10). -/
def Obligations.EncodeBuildsTheFrame : Prop :=
  decode 0x00000009 = .ok .encode ∧
  ∀ s : State,
    let p := (7 * min s.msgLen.toNat 40 + 7) / 8
    let n := p / 3 + 1
    let size := 80 + 4 * n
    let a := par .b30_1 (bch (((((s.opa >>> 3) &&& 0x7FFFF) <<< 2) ||| 0b11) <<< 11))
    let intermediates := fun t : State =>
      (∀ j, j < 35 → t.packBuf j = (packedBuf ((List.range 40).map s.msg) s.msgLen.toNat).getD j 0) ∧
      ∀ k, k < 12 → t.cwBuf k = if k < n then msgCodeword .b30_1 ((List.range 35).map t.packBuf) k else 0
    (s.msgPresent = false ∨ s.outPresent = false →
      exec .encode s = .next { s with err := .nullInput, stage := .none, sticky := true }) ∧
    (s.msgPresent = true → s.outPresent = true → s.outCap.toNat < size →
      ∃ t, exec .encode s = .next t ∧
        t = { s with mem := t.mem, packLen := BitVec.ofNat 8 p, cwCount := BitVec.ofNat 8 n, addrCw := a, outLen := 0
                     err := .capacity, stage := .frame, sticky := true } ∧
        intermediates t ∧
        ∀ x, (x < 0x080 ∨ (0x0A3 ≤ x ∧ x < 0x0C0) ∨ 0x0F0 ≤ x) → t.mem.read x = s.mem.read x) ∧
    (s.msgPresent = true → s.outPresent = true → size ≤ s.outCap.toNat →
      ∃ t, exec .encode s = .next t ∧
        t = { s with mem := t.mem, packLen := BitVec.ofNat 8 p, cwCount := BitVec.ofNat 8 n, addrCw := a
                     outLen := BitVec.ofNat 8 size, result := BitVec.ofNat 32 size, err := .ok, stage := .none } ∧
        intermediates t ∧
        (∀ j, j < 72 → t.outBuf j = 0xAA) ∧ t.outWord 72 = 0x7CD215D8 ∧ t.outWord 76 = a ∧
        (∀ k, k < n → t.outWord (80 + 4 * k) = t.cwBuf k) ∧
        ∀ x, (x < 0x080 ∨ (0x0A3 ≤ x ∧ x < 0x0C0) ∨ (0x0F0 ≤ x ∧ x < 0x100) ∨ 0x100 + size ≤ x) →
          t.mem.read x = s.mem.read x)

/-! ## The functions of the units -/

/-- The laws of bit reversal (R422; the spec marks the last two as derived). -/
def Obligations.BitReversalLaws : Prop :=
  (∀ b, rev8 (rev8 b) = b) ∧ Function.Bijective rev8 ∧ (∀ b, popcount (rev8 b) = popcount b) ∧
    ∀ a b, rev8 (a ^^^ b) = rev8 a ^^^ rev8 b

/-- `bch` in closed form: the check bits are (D(x) · x^10) mod g(x), ORed into bits 10..1, where g(x) is
x^10 + x^9 + x^8 + x^6 + x^5 + x^3 + 1 and D(x) is the data field, bits 31..11. (The closed
form of R441 and the expansion of R440, both of which the spec marks as derived.) -/
def Obligations.BchIsPolynomialDivision : Prop :=
  gf2Poly Config.bchGen =
      Polynomial.X ^ 10 + Polynomial.X ^ 9 + Polynomial.X ^ 8 + Polynomial.X ^ 6 + Polynomial.X ^ 5 +
        Polynomial.X ^ 3 + 1 ∧
    ∀ w : Word, ∃ c : BitVec 10, bch w = w ||| (c.setWidth 32 <<< 1) ∧
      gf2Poly c = (gf2Poly (w.extractLsb' 11 21) * Polynomial.X ^ 10) %ₘ gf2Poly Config.bchGen

/-- The source's description of the division, on the 31-bit frame, gives the same word for every input (R443,
which the spec marks as derived). -/
def Obligations.BchSourceFrameGivesTheSameWord : Prop :=
  ∀ w, bchSourceFrame w = bch w

/-- The five laws of `bch`: the check bits depend on the data field only; the data field and bit 0 are kept; it is
idempotent; it is linear on words with zero low bits; the syndrome of its result is zero when bits 10..1 were
(R444, which the spec marks as derived). -/
def Obligations.BchLaws : Prop :=
  (∃ check : BitVec 21 → BitVec 10, ∀ w : Word,
      bch w = w ||| ((check (w.extractLsb' 11 21)).setWidth 32 <<< 1)) ∧
    (∀ w : Word, (bch w).extractLsb' 11 21 = w.extractLsb' 11 21 ∧ (bch w).getLsbD 0 = w.getLsbD 0) ∧
    (∀ w, bch (bch w) = bch w) ∧
    (∀ w v : Word, w.extractLsb' 0 11 = 0 → v.extractLsb' 0 11 = 0 → bch (w ^^^ v) = bch w ^^^ bch v) ∧
    ∀ w : Word, w.extractLsb' 1 10 = 0 → gf2Poly Config.bchGen ∣ gf2Poly ((bch w).extractLsb' 1 31)

/-- The laws of `par` at both spans (R452, which the spec marks as derived). -/
def Obligations.ParityLaws : Prop :=
  ∀ span w, (par span w).extractLsb' 1 31 = w.extractLsb' 1 31 ∧ par span (par span w) = par span w ∧
    (w.getLsbD 0 = false → span = .b30_1 → popcount ((par span w).extractLsb' 0 31) % 2 = 0) ∧
    (w.getLsbD 0 = false → span = .b31_1 → popcount (par span w) % 2 = 0)

/-- The model's syndrome check is the one R457 defines: divisibility by the generator. -/
def Obligations.SyndromeCheckIsDivisibility : Prop :=
  ∀ w : Word, syndromeOk w = true ↔ gf2Poly Config.bchGen ∣ gf2Poly (w.extractLsb' 1 31)

/-- Every sealed word with zero low bits passes both codeword checks, at either span; so do the two constants
(R457; the spec marks the first part as derived). -/
def Obligations.SealedWordsPassBothChecks : Prop :=
  (∀ span w, w.extractLsb' 0 11 = 0 →
      syndromeOk (sealWord span w) = true ∧ parityOk span (sealWord span w) = true) ∧
    ∀ span, syndromeOk 0x7CD215D8 = true ∧ parityOk span 0x7CD215D8 = true ∧
      syndromeOk 0x7A89C197 = true ∧ parityOk span 0x7A89C197 = true

/-- A word with zero low bits, sealed at either span, in terms of its data field `d` alone: bits 31..11 are `d`; bits 10..1
are the check bits `c` that `bch` puts there, the remainder of d(x) · x^10 by the generator; bit 0 is the parity of the span
over those two fields. So the check bits and the parity bit are functions of `d` (R455 with R441 and R450, which the
spec marks as derived). -/
def Obligations.SealDependsOnTheDataFieldOnly : Prop :=
  ∀ (span : Config.ParitySpan) (w : Word), w.extractLsb' 0 11 = 0 →
    let d := w.extractLsb' 11 21
    let c := (bch w).extractLsb' 1 10
    gf2Poly c = (gf2Poly d * Polynomial.X ^ 10) %ₘ gf2Poly Config.bchGen ∧
      bch w = d ++ c ++ 0#1 ∧
      sealWord span w = d ++ c ++ BitVec.ofBool (parityOdd span (d ++ c ++ 0#1))

/-- The fields of an address codeword, at either span: address bits 21..3 at bits 31..13, the function code at 12..11,
and both checks pass (R306, R480, R481; the spec marks the last part as derived). -/
def Obligations.AddressCodewordFields : Prop :=
  ∀ span a, (∀ i, i < 19 → (addrCodeword span a).getLsbD (13 + i) = a.getLsbD (3 + i)) ∧
    (addrCodeword span a).extractLsb' 11 2 = 0b11 ∧
    syndromeOk (addrCodeword span a) = true ∧ parityOk span (addrCodeword span a) = true

/-- Two addresses have the same codeword exactly when their bits 21..3 agree: bits 2..0 and 31..22 are dropped, and no
other (R483, which the spec marks as derived). -/
def Obligations.AddressCodewordDropsFrameAndHighBits : Prop :=
  ∀ span a b, addrCodeword span a = addrCodeword span b ↔ a.extractLsb' 3 19 = b.extractLsb' 3 19

/-- The packed bitstream in closed form, for every message and length (R504, which the spec marks as derived). -/
def Obligations.PackedBitstreamClosedForm : Prop :=
  ∀ (msg : List Byte) (len n : Nat), n < 280 → streamBit (packedBuf msg len) n =
    if n < 7 * min len 40 then (msg.getD (n / 7) 0).getLsbD (n % 7) else false

/-- Unpacking recovers the low seven bits of every character packed (R507, which the spec marks as derived). -/
def Obligations.UnpackingRecoversTheCharacters : Prop :=
  ∀ (msg : List Byte) (len i : Nat), i < min len 40 →
    unpackChar (packedBuf msg len) i = msg.getD i 0 &&& 0x7F

/-- A message codeword carries bits 20k to 20k+19 of the bitstream at bits 30..11 and the flag at bit 31, and its low
eleven bits are the check and parity bits of `seal`, for every packed buffer, index and span (R534, which the
spec marks as derived). -/
def Obligations.MessageCodewordCarriesItsSlice : Prop :=
  ∀ span (pb : List Byte) k, pb.length = 35 →
    (∀ i, i < 20 → (msgCodeword span pb k).getLsbD (30 - i) = streamBit pb (20 * k + i)) ∧
    (msgCodeword span pb k).getLsbD 31 = true ∧
    msgCodeword span pb k = sealWord span (msgCodeword span pb k &&& 0xFFFFF800)

/-- The ranges of the message codeword assembler: the count, the bytes read, and the all-zero slice from index 14 on
(R536, which the spec marks as derived). -/
def Obligations.SliceRanges : Prop :=
  (∀ p, p ≤ 35 → 1 ≤ msgCount p ∧ msgCount p ≤ 12 ∧ ∀ k, k < msgCount p → sliceCursor k + 2 ≤ 29) ∧
    (∀ k, k < 256 → sliceCursor k + 2 ≤ 639) ∧
    ∀ (pb : List Byte) k, pb.length = 35 → 14 ≤ k →
      35 ≤ sliceCursor k ∧ msgCodeword .b30_1 pb k = 0x80000768

/-- How many message bits the count formula leaves out, for each truncated length 0 to 40 (R539 and the length table of
95_test_vectors, which the spec marks as derived). -/
def Obligations.BitsTheCountFormulaLosesAreTabled : Prop :=
  ∀ l, l ≤ 40 → 7 * l - 20 * msgCount (packedLen l) =
    [0, 0, 0, 0, 0, 0, 0, 0, 0, 3, 0, 0, 4, 0, 0, 5, 12, 0, 6, 13, 0, 7, 14, 1, 8, 15, 22, 9, 16, 23, 10, 17, 24, 31,
      18, 25, 32, 19, 26, 33, 40].getD l 0

/-! ## Rules of the whole machine -/

/-- Which command writes which state: the table of R115, "ok" columns included, and the state only the host writes
(the spec marks the table as derived). That an ENCODE which ends in an error leaves `OUT_BUF` as it was is what R114, R573
and R115 say of this hardware; R735 and U1 let a model give those bytes any value, and keeping them is the model's choice
(log 10): no claim about a program may rest on it. -/
def Obligations.CommandsWriteOnlyTheirState : Prop :=
  ∀ i s t, exec i s = .next t →
    (t.opa = s.opa ∧ t.msgPresent = s.msgPresent ∧ t.outPresent = s.outPresent ∧ t.msgLen = s.msgLen ∧
      t.packCap = s.packCap ∧ t.cwCap = s.cwCap ∧ t.outCap = s.outCap ∧ (∀ j, j < 40 → t.msg j = s.msg j) ∧
      t.pending = s.pending ∧ t.readData = s.readData) ∧
    (i = .nop ∨ t.err ≠ .ok → t.result = s.result) ∧
    (i ≠ .addrcw → (i = .encode → t.err = .nullInput) → t.addrCw = s.addrCw) ∧
    ((i = .pack → t.err ≠ .ok) → (i = .encode → t.err = .nullInput) →
      t.packLen = s.packLen ∧ ∀ j, j < 35 → t.packBuf j = s.packBuf j) ∧
    ((i = .msgcw → t.err ≠ .ok) → (i = .encode → t.err = .nullInput) →
      t.cwCount = s.cwCount ∧ ∀ k, k < 12 → t.cwBuf k = s.cwBuf k) ∧
    ((i = .encode → t.err ≠ .ok) → ∀ j, j < 128 → t.outBuf j = s.outBuf j) ∧
    ((i = .encode → t.err = .nullInput) → t.outLen = s.outLen) ∧
    (s.sticky = true → t.sticky = true)

/-- When each command error is raised, and by which command: NULL_INPUT by PACK and ENCODE, before anything is computed
and writing only `STATUS`; CAPACITY by PACK, MSGCW and ENCODE, with its stage; a legal command ends in no other error, and
no other command in any (an inference from R611 and R612, from R601 for `STICKY` afterwards, and from R613's table of
outcomes, which the spec marks as derived). The equation of a NULL_INPUT outcome keeps `OUT_BUF` after an ENCODE that
failed: R611 says so of the command, R735 bars a claim about a program from resting on it, and keeping those bytes is the
model's choice (log 10). -/
def Obligations.ErrorsAreRaisedExactlyWhenTheRulesSay : Prop :=
  ∀ i s t, exec i s = .next t →
    let p := (7 * min s.msgLen.toNat 40 + 7) / 8
    let null := (i = .pack ∧ s.msgPresent = false) ∨
      (i = .encode ∧ (s.msgPresent = false ∨ s.outPresent = false))
    (t.err = .nullInput ↔ null) ∧
    (t.err = .nullInput → t = { s with err := .nullInput, stage := .none, sticky := true }) ∧
    ((t.err = .capacity ∧ t.stage = .pack) ↔ (i = .pack ∧ ¬ null ∧ s.packCap.toNat < p)) ∧
    ((t.err = .capacity ∧ t.stage = .msgcw) ↔ (i = .msgcw ∧ s.cwCap.toNat < s.packLen.toNat / 3 + 1)) ∧
    ((t.err = .capacity ∧ t.stage = .frame) ↔
      (i = .encode ∧ ¬ null ∧ s.outCap.toNat < 80 + 4 * (p / 3 + 1))) ∧
    (t.stage = .none ↔ t.err ≠ .capacity) ∧ t.err ≠ .illegalCmd ∧
    t.sticky = (s.sticky || decide (t.err ≠ .ok))

/-- Running a command again on the state it left changes nothing: every command rewrites the same values, `STATUS` of a
failed one too (R208 and R616, in parts the spec marks as derived). Of an ENCODE that fails it says, among the rest, that
the second run leaves `OUT_BUF` as the first did: keeping those bytes is the model's choice (log 10), and R735 bars a
claim about a program from resting on it. -/
def Obligations.RepeatingACommandChangesNothing : Prop :=
  ∀ i s t, exec i s = .next t → exec i t = .next t

/-- `STICKY` goes from 1 to 0 only by a 4-byte write to `STATUS` with bit 8 set, or by reset. -/
def Obligations.StickyIsClearedOnlyByHostOrReset : Prop :=
  ∀ s t, step s = .next t → s.sticky = true → t.sticky = false →
    ∃ e rest, s.pending = e :: rest ∧ (e = .reset ∨ ∃ v : Word, e = .write 0x008 4 v ∧ v.getLsbD 8 = true)

/-- ENCODE on a message longer than 40 gives what it gives at length 40, and characters from the truncated length on are
never read: two states that differ only in `MSG_LEN` and `MSG`, with the same truncated length and the same first
characters, report the same outcome and results. Of `OUT_BUF` it says only the bytes of the frame. (R501, and the third law of
R575, which the spec marks as derived.) -/
def Obligations.EncodeReadsOnlyTheTruncatedMessage : Prop :=
  ∀ s s' t t' : State, s' = { s with msgLen := s'.msgLen, mem := s'.mem } →
    min s.msgLen.toNat 40 = min s'.msgLen.toNat 40 →
    (∀ i, i < min s.msgLen.toNat 40 → s.msg i = s'.msg i) →
    s.msgPresent = true → s.outPresent = true →
    exec .encode s = .next t → exec .encode s' = .next t' →
    t'.err = t.err ∧ t'.stage = t.stage ∧ t'.sticky = t.sticky ∧ t'.packLen = t.packLen ∧ t'.cwCount = t.cwCount ∧
    t'.outLen = t.outLen ∧ t'.addrCw = t.addrCw ∧ t'.result = t.result ∧
    (∀ j, j < 35 → t'.packBuf j = t.packBuf j) ∧ (∀ k, k < 12 → t'.cwBuf k = t.cwBuf k) ∧
    ∀ j, j < t.outLen.toNat → t'.outBuf j = t.outBuf j

/-- ENCODE leaves in `PACK_BUF`, `CW_BUF`, their lengths and `ADDR_CW` what PACK, MSGCW and ADDRCW leave there when they
run one after another with capacities that cannot be exceeded (an inference from R482, R506, R541 and R574). -/
def Obligations.EncodeAgreesWithTheCommandsInSequence : Prop :=
  ∀ s, s.msgPresent = true → s.outPresent = true → 35 ≤ s.packCap.toNat → 12 ≤ s.cwCap.toNat →
    ∃ s1 s2 s3 t, exec .pack s = .next s1 ∧ exec .msgcw s1 = .next s2 ∧ exec .addrcw s2 = .next s3 ∧
      exec .encode s = .next t ∧ t.packLen = s3.packLen ∧ t.cwCount = s3.cwCount ∧ t.addrCw = s3.addrCw ∧
      (∀ j, j < 35 → t.packBuf j = s3.packBuf j) ∧ ∀ k, k < 12 → t.cwBuf k = s3.cwBuf k

/-- After a successful ENCODE every 4-byte group of the frame from the sync word on, read big-endian, passes the syndrome
and the parity check (the last law of R575, which the spec marks as derived). -/
def Obligations.EveryFrameGroupIsAGoodCodeword : Prop :=
  ∀ s t, exec .encode s = .next t → t.err = .ok →
    84 ≤ t.outLen.toNat ∧ ∀ g, 18 ≤ g → 4 * g + 4 ≤ t.outLen.toNat → goodCodeword (t.outWord (4 * g))

/-! ## Invariants -/

/-- The reset state meets every invariant below. The first of them, `StorageInv`, is about the list of offset and byte pairs
in which the model holds the buffers, and that list and its canonical form are the model's own choice (log 8); the values
behind all of them are R700's. -/
def Obligations.ResetMeetsTheInvariants : Prop :=
  StorageInv State.reset ∧ LengthInv State.reset ∧ StatusInv State.reset ∧ TailInv State.reset ∧
    CodewordInv State.reset

/-- Every step keeps the buffer store in canonical form and inside the four buffers. The store and its canonical form are
the model's own choice (log 8); from the spec come the four buffers and their offsets (R202) and the zero that an unlisted
byte reads as (R700, log 9). -/
def Obligations.StepKeepsTheBufferStoreCanonical : Prop :=
  ∀ s s', StorageInv s → step s = .next s' → StorageInv s'

/-- Every step keeps the three lengths in their ranges. -/
def Obligations.StepKeepsTheLengthRanges : Prop :=
  ∀ s s', LengthInv s → step s = .next s' → LengthInv s'

/-- Every step keeps `STAGE` naming a stage exactly when `ERR` is CAPACITY. -/
def Obligations.StepKeepsStageOnlyWithCapacity : Prop :=
  ∀ s s', StatusInv s → step s = .next s' → StatusInv s'

/-- Every step keeps the buffers zero beyond `PACK_LEN` and `CW_COUNT`. -/
def Obligations.StepKeepsTheBufferTailsZero : Prop :=
  ∀ s s', TailInv s → step s = .next s' → TailInv s'

/-- Every step keeps it so that every codeword the block's registers show passes the syndrome and the parity check:
`ADDR_CW`, and the codewords of `CW_BUF`, each with its flag. -/
def Obligations.StepKeepsEveryShownCodewordGood : Prop :=
  ∀ s s', CodewordInv s → step s = .next s' → CodewordInv s'
end

