-- ==== Sys2Proof/Laws/Bits.lean ====
section
/-! SUPPORT. The small laws of the bit helpers and of the pure functions of the units (00_scope R14). -/

namespace Sys2Proof.Machine

@[simp] theorem getLsbD_ofBits (n : Nat) (f : Nat → Bool) (i : Nat) :
    (ofBits n f).getLsbD i = (decide (i < n) && f i) := by
  induction n with
  | zero => simp
  | succ n ih =>
    rw [ofBits, BitVec.getLsbD_cons]
    by_cases h : i = n
    · simp [h]
    · have : (i < n) ↔ (i < n + 1) := by omega
      simp [h, ih, this]

@[simp] theorem bytesLE_length (v : Word) : (bytesLE v).length = 4 := rfl

@[simp] theorem bytesBE_length (v : Word) : (bytesBE v).length = 4 := rfl

/-- Little-endian assembly undoes little-endian storage (R204, R213). -/
@[simp] theorem wordLE_bytesLE (v : Word) :
    wordLE (v.extractLsb' 0 8) (v.extractLsb' 8 8) (v.extractLsb' 16 8) (v.extractLsb' 24 8) = v := by
  ext i hi
  simp only [wordLE, ← BitVec.getLsbD_eq_getElem, BitVec.getLsbD_append, BitVec.getLsbD_extractLsb']
  by_cases h1 : i < 8
  · simp [h1]
  · by_cases h2 : i < 16
    · have h3 : i - 8 < 8 := by omega
      have h4 : 8 + (i - 8) = i := by omega
      simp [h1, h3, h4]
    · by_cases h3 : i < 24
      · have h4 : ¬ i - 8 < 8 := by omega
        have h5 : i - 8 - 8 < 8 := by omega
        have h6 : 16 + (i - 8 - 8) = i := by omega
        simp [h1, h4, h5, h6]
      · have h4 : ¬ i - 8 < 8 := by omega
        have h5 : ¬ i - 8 - 8 < 8 := by omega
        have h6 : 24 + (i - 8 - 8 - 8) = i := by omega
        have h7 : i - 8 - 8 - 8 < 8 := by omega
        simp [h1, h4, h5, h6, h7]

/-- Each word of a list turned into four bytes lands at four times its index. -/
theorem flatMap_four_getD {f : Word → List Byte} (hf : ∀ w, (f w).length = 4) {ws : List Word} {k i : Nat}
    (hk : k < ws.length) (hi : i < 4) (d : Byte) :
    (ws.flatMap f).getD (4 * k + i) d = (f ws[k]).getD i d := by
  induction ws generalizing k with
  | nil => simp at hk
  | cons w ws ih =>
    rw [List.flatMap_cons]
    cases k with
    | zero => simp [List.getD, List.getElem?_append_left (show i < (f w).length by rw [hf]; exact hi)]
    | succ k =>
      have h4 : (f w).length ≤ 4 * (k + 1) + i := by rw [hf]; omega
      have h5 : 4 * (k + 1) + i - (f w).length = 4 * k + i := by rw [hf]; omega
      have := ih (k := k) (by simpa using hk)
      rw [List.getD, List.getElem?_append_right h4, h5]
      simpa [List.getD] using this

theorem flatMap_four_length {f : Word → List Byte} (hf : ∀ w, (f w).length = 4) (ws : List Word) :
    (ws.flatMap f).length = 4 * ws.length := by
  induction ws with
  | nil => rfl
  | cons w ws ih => rw [List.flatMap_cons, List.length_append, hf, ih, List.length_cons]; omega

/-- Bit `i` of the reversed byte (R420). -/
theorem getLsbD_rev8 (b : Byte) (i : Nat) : (rev8 b).getLsbD i = (decide (i < 8) && b.getLsbD (7 - i)) :=
  getLsbD_ofBits 8 _ i

/-- Bit `6 - j` of a character's group is bit `j` of the character (R500). -/
theorem getLsbD_s7 (c : Byte) (j : Nat) (h : j < 7) : (s7 c).getLsbD j = c.getLsbD (6 - j) := by
  have h1 : 1 + j < 8 := by omega
  have h2 : 7 - (1 + j) = 6 - j := by omega
  rw [s7, BitVec.getLsbD_extractLsb', getLsbD_rev8, h2]
  simp [h, h1]

@[simp] theorem orInto_length (pb : List Byte) (j : Nat) (b : Byte) : (orInto pb j b).length = pb.length := by
  simp [orInto]

@[simp] theorem packChar_length (msg pb : List Byte) (i : Nat) : (packChar msg pb i).length = pb.length := by
  unfold packChar
  dsimp only
  split <;> simp

/-- The packed buffer has all 35 bytes whatever the length (R503). -/
@[simp] theorem packedBuf_length (msg : List Byte) (len : Nat) : (packedBuf msg len).length = 35 := by
  have h : ∀ (l : List Nat) (pb : List Byte), (l.foldl (packChar msg) pb).length = pb.length := by
    intro l
    induction l with
    | nil => exact fun _ => rfl
    | cons i l ih => exact fun pb => (ih _).trans (packChar_length msg pb i)
  simp [packedBuf, h, Config.packBufSize]

theorem truncatedLen_le (len : Nat) : truncatedLen len ≤ 40 := Nat.min_le_right ..

/-- `P` ranges over 0..35 (R502). -/
theorem packedLen_le (len : Nat) : packedLen len ≤ 35 := by
  have := truncatedLen_le len
  unfold packedLen
  omega

theorem msgCount_pos (p : Nat) : 0 < msgCount p := Nat.succ_pos _

/-- `N` ranges over 1..12 for the packed lengths there are (R536). -/
theorem msgCount_le {p : Nat} (h : p ≤ 35) : msgCount p ≤ 12 := by
  unfold msgCount
  omega

@[simp] theorem msgCodewords_length (span : Config.ParitySpan) (pb : List Byte) (n : Nat) :
    (msgCodewords span pb n).length = 12 := by
  simp [msgCodewords, Config.maxCw]

theorem msgCodewords_getElem (span : Config.ParitySpan) (pb : List Byte) (n k : Nat)
    (h : k < (msgCodewords span pb n).length) :
    (msgCodewords span pb n)[k] = if k < n then msgCodeword span pb k else 0 := by
  simp [msgCodewords]

/-- A frame of `n` codewords has `80 + 4n` bytes (R572). -/
theorem frame_length (a : Word) {cws : List Word} {n : Nat} (h : n ≤ cws.length) :
    (frame a cws n).length = frameLen n := by
  simp only [frame, frameLen, List.length_append, List.length_replicate, bytesBE_length, Config.preambleLen,
    flatMap_four_length bytesBE_length, List.length_take, Nat.min_eq_left h]

end Sys2Proof.Machine
end

