-- ==== Sys2Proof/Laws/State.lean ====
section
/-! SUPPORT. One lemma per field per update of State, each true by rfl, so that no later proof unfolds a record update. -/

namespace Sys2Proof.Machine

/-! ### `State.store` -/

@[simp] theorem State.store_msgPresent (s : State) (a : Nat) (bs : List Byte) :
    (s.store a bs).msgPresent = s.msgPresent := rfl
@[simp] theorem State.store_outPresent (s : State) (a : Nat) (bs : List Byte) :
    (s.store a bs).outPresent = s.outPresent := rfl
@[simp] theorem State.store_err (s : State) (a : Nat) (bs : List Byte) : (s.store a bs).err = s.err := rfl
@[simp] theorem State.store_stage (s : State) (a : Nat) (bs : List Byte) : (s.store a bs).stage = s.stage := rfl
@[simp] theorem State.store_sticky (s : State) (a : Nat) (bs : List Byte) : (s.store a bs).sticky = s.sticky := rfl
@[simp] theorem State.store_opa (s : State) (a : Nat) (bs : List Byte) : (s.store a bs).opa = s.opa := rfl
@[simp] theorem State.store_result (s : State) (a : Nat) (bs : List Byte) : (s.store a bs).result = s.result := rfl
@[simp] theorem State.store_msgLen (s : State) (a : Nat) (bs : List Byte) : (s.store a bs).msgLen = s.msgLen := rfl
@[simp] theorem State.store_packCap (s : State) (a : Nat) (bs : List Byte) : (s.store a bs).packCap = s.packCap := rfl
@[simp] theorem State.store_cwCap (s : State) (a : Nat) (bs : List Byte) : (s.store a bs).cwCap = s.cwCap := rfl
@[simp] theorem State.store_outCap (s : State) (a : Nat) (bs : List Byte) : (s.store a bs).outCap = s.outCap := rfl
@[simp] theorem State.store_packLen (s : State) (a : Nat) (bs : List Byte) : (s.store a bs).packLen = s.packLen := rfl
@[simp] theorem State.store_cwCount (s : State) (a : Nat) (bs : List Byte) : (s.store a bs).cwCount = s.cwCount := rfl
@[simp] theorem State.store_outLen (s : State) (a : Nat) (bs : List Byte) : (s.store a bs).outLen = s.outLen := rfl
@[simp] theorem State.store_addrCw (s : State) (a : Nat) (bs : List Byte) : (s.store a bs).addrCw = s.addrCw := rfl
@[simp] theorem State.store_mem (s : State) (a : Nat) (bs : List Byte) : (s.store a bs).mem = s.mem.store a bs := rfl
@[simp] theorem State.store_pending (s : State) (a : Nat) (bs : List Byte) : (s.store a bs).pending = s.pending := rfl
@[simp] theorem State.store_readData (s : State) (a : Nat) (bs : List Byte) :
    (s.store a bs).readData = s.readData := rfl

/-! ### `State.setPackBuf` -/

@[simp] theorem State.setPackBuf_msgPresent (s : State) (bs : List Byte) :
    (s.setPackBuf bs).msgPresent = s.msgPresent := rfl
@[simp] theorem State.setPackBuf_outPresent (s : State) (bs : List Byte) :
    (s.setPackBuf bs).outPresent = s.outPresent := rfl
@[simp] theorem State.setPackBuf_err (s : State) (bs : List Byte) : (s.setPackBuf bs).err = s.err := rfl
@[simp] theorem State.setPackBuf_stage (s : State) (bs : List Byte) : (s.setPackBuf bs).stage = s.stage := rfl
@[simp] theorem State.setPackBuf_sticky (s : State) (bs : List Byte) : (s.setPackBuf bs).sticky = s.sticky := rfl
@[simp] theorem State.setPackBuf_opa (s : State) (bs : List Byte) : (s.setPackBuf bs).opa = s.opa := rfl
@[simp] theorem State.setPackBuf_result (s : State) (bs : List Byte) : (s.setPackBuf bs).result = s.result := rfl
@[simp] theorem State.setPackBuf_msgLen (s : State) (bs : List Byte) : (s.setPackBuf bs).msgLen = s.msgLen := rfl
@[simp] theorem State.setPackBuf_packCap (s : State) (bs : List Byte) : (s.setPackBuf bs).packCap = s.packCap := rfl
@[simp] theorem State.setPackBuf_cwCap (s : State) (bs : List Byte) : (s.setPackBuf bs).cwCap = s.cwCap := rfl
@[simp] theorem State.setPackBuf_outCap (s : State) (bs : List Byte) : (s.setPackBuf bs).outCap = s.outCap := rfl
@[simp] theorem State.setPackBuf_packLen (s : State) (bs : List Byte) : (s.setPackBuf bs).packLen = s.packLen := rfl
@[simp] theorem State.setPackBuf_cwCount (s : State) (bs : List Byte) : (s.setPackBuf bs).cwCount = s.cwCount := rfl
@[simp] theorem State.setPackBuf_outLen (s : State) (bs : List Byte) : (s.setPackBuf bs).outLen = s.outLen := rfl
@[simp] theorem State.setPackBuf_addrCw (s : State) (bs : List Byte) : (s.setPackBuf bs).addrCw = s.addrCw := rfl
@[simp] theorem State.setPackBuf_mem (s : State) (bs : List Byte) :
    (s.setPackBuf bs).mem = s.mem.store Config.packBase bs := rfl
@[simp] theorem State.setPackBuf_pending (s : State) (bs : List Byte) : (s.setPackBuf bs).pending = s.pending := rfl
@[simp] theorem State.setPackBuf_readData (s : State) (bs : List Byte) :
    (s.setPackBuf bs).readData = s.readData := rfl

/-! ### `State.setCwBuf` -/

@[simp] theorem State.setCwBuf_msgPresent (s : State) (ws : List Word) :
    (s.setCwBuf ws).msgPresent = s.msgPresent := rfl
@[simp] theorem State.setCwBuf_outPresent (s : State) (ws : List Word) :
    (s.setCwBuf ws).outPresent = s.outPresent := rfl
@[simp] theorem State.setCwBuf_err (s : State) (ws : List Word) : (s.setCwBuf ws).err = s.err := rfl
@[simp] theorem State.setCwBuf_stage (s : State) (ws : List Word) : (s.setCwBuf ws).stage = s.stage := rfl
@[simp] theorem State.setCwBuf_sticky (s : State) (ws : List Word) : (s.setCwBuf ws).sticky = s.sticky := rfl
@[simp] theorem State.setCwBuf_opa (s : State) (ws : List Word) : (s.setCwBuf ws).opa = s.opa := rfl
@[simp] theorem State.setCwBuf_result (s : State) (ws : List Word) : (s.setCwBuf ws).result = s.result := rfl
@[simp] theorem State.setCwBuf_msgLen (s : State) (ws : List Word) : (s.setCwBuf ws).msgLen = s.msgLen := rfl
@[simp] theorem State.setCwBuf_packCap (s : State) (ws : List Word) : (s.setCwBuf ws).packCap = s.packCap := rfl
@[simp] theorem State.setCwBuf_cwCap (s : State) (ws : List Word) : (s.setCwBuf ws).cwCap = s.cwCap := rfl
@[simp] theorem State.setCwBuf_outCap (s : State) (ws : List Word) : (s.setCwBuf ws).outCap = s.outCap := rfl
@[simp] theorem State.setCwBuf_packLen (s : State) (ws : List Word) : (s.setCwBuf ws).packLen = s.packLen := rfl
@[simp] theorem State.setCwBuf_cwCount (s : State) (ws : List Word) : (s.setCwBuf ws).cwCount = s.cwCount := rfl
@[simp] theorem State.setCwBuf_outLen (s : State) (ws : List Word) : (s.setCwBuf ws).outLen = s.outLen := rfl
@[simp] theorem State.setCwBuf_addrCw (s : State) (ws : List Word) : (s.setCwBuf ws).addrCw = s.addrCw := rfl
@[simp] theorem State.setCwBuf_mem (s : State) (ws : List Word) :
    (s.setCwBuf ws).mem = s.mem.store Config.cwBase (ws.flatMap bytesLE) := rfl
@[simp] theorem State.setCwBuf_pending (s : State) (ws : List Word) : (s.setCwBuf ws).pending = s.pending := rfl
@[simp] theorem State.setCwBuf_readData (s : State) (ws : List Word) : (s.setCwBuf ws).readData = s.readData := rfl

/-! ### `State.setOutBuf` -/

@[simp] theorem State.setOutBuf_msgPresent (s : State) (bs : List Byte) :
    (s.setOutBuf bs).msgPresent = s.msgPresent := rfl
@[simp] theorem State.setOutBuf_outPresent (s : State) (bs : List Byte) :
    (s.setOutBuf bs).outPresent = s.outPresent := rfl
@[simp] theorem State.setOutBuf_err (s : State) (bs : List Byte) : (s.setOutBuf bs).err = s.err := rfl
@[simp] theorem State.setOutBuf_stage (s : State) (bs : List Byte) : (s.setOutBuf bs).stage = s.stage := rfl
@[simp] theorem State.setOutBuf_sticky (s : State) (bs : List Byte) : (s.setOutBuf bs).sticky = s.sticky := rfl
@[simp] theorem State.setOutBuf_opa (s : State) (bs : List Byte) : (s.setOutBuf bs).opa = s.opa := rfl
@[simp] theorem State.setOutBuf_result (s : State) (bs : List Byte) : (s.setOutBuf bs).result = s.result := rfl
@[simp] theorem State.setOutBuf_msgLen (s : State) (bs : List Byte) : (s.setOutBuf bs).msgLen = s.msgLen := rfl
@[simp] theorem State.setOutBuf_packCap (s : State) (bs : List Byte) : (s.setOutBuf bs).packCap = s.packCap := rfl
@[simp] theorem State.setOutBuf_cwCap (s : State) (bs : List Byte) : (s.setOutBuf bs).cwCap = s.cwCap := rfl
@[simp] theorem State.setOutBuf_outCap (s : State) (bs : List Byte) : (s.setOutBuf bs).outCap = s.outCap := rfl
@[simp] theorem State.setOutBuf_packLen (s : State) (bs : List Byte) : (s.setOutBuf bs).packLen = s.packLen := rfl
@[simp] theorem State.setOutBuf_cwCount (s : State) (bs : List Byte) : (s.setOutBuf bs).cwCount = s.cwCount := rfl
@[simp] theorem State.setOutBuf_outLen (s : State) (bs : List Byte) : (s.setOutBuf bs).outLen = s.outLen := rfl
@[simp] theorem State.setOutBuf_addrCw (s : State) (bs : List Byte) : (s.setOutBuf bs).addrCw = s.addrCw := rfl
@[simp] theorem State.setOutBuf_mem (s : State) (bs : List Byte) :
    (s.setOutBuf bs).mem = s.mem.store Config.outBase bs := rfl
@[simp] theorem State.setOutBuf_pending (s : State) (bs : List Byte) : (s.setOutBuf bs).pending = s.pending := rfl
@[simp] theorem State.setOutBuf_readData (s : State) (bs : List Byte) : (s.setOutBuf bs).readData = s.readData := rfl

/-! ### `State.setResult` -/

@[simp] theorem State.setResult_msgPresent (s : State) (v : Word) : (s.setResult v).msgPresent = s.msgPresent := rfl
@[simp] theorem State.setResult_outPresent (s : State) (v : Word) : (s.setResult v).outPresent = s.outPresent := rfl
@[simp] theorem State.setResult_err (s : State) (v : Word) : (s.setResult v).err = s.err := rfl
@[simp] theorem State.setResult_stage (s : State) (v : Word) : (s.setResult v).stage = s.stage := rfl
@[simp] theorem State.setResult_sticky (s : State) (v : Word) : (s.setResult v).sticky = s.sticky := rfl
@[simp] theorem State.setResult_opa (s : State) (v : Word) : (s.setResult v).opa = s.opa := rfl
@[simp] theorem State.setResult_result (s : State) (v : Word) : (s.setResult v).result = v := rfl
@[simp] theorem State.setResult_msgLen (s : State) (v : Word) : (s.setResult v).msgLen = s.msgLen := rfl
@[simp] theorem State.setResult_packCap (s : State) (v : Word) : (s.setResult v).packCap = s.packCap := rfl
@[simp] theorem State.setResult_cwCap (s : State) (v : Word) : (s.setResult v).cwCap = s.cwCap := rfl
@[simp] theorem State.setResult_outCap (s : State) (v : Word) : (s.setResult v).outCap = s.outCap := rfl
@[simp] theorem State.setResult_packLen (s : State) (v : Word) : (s.setResult v).packLen = s.packLen := rfl
@[simp] theorem State.setResult_cwCount (s : State) (v : Word) : (s.setResult v).cwCount = s.cwCount := rfl
@[simp] theorem State.setResult_outLen (s : State) (v : Word) : (s.setResult v).outLen = s.outLen := rfl
@[simp] theorem State.setResult_addrCw (s : State) (v : Word) : (s.setResult v).addrCw = s.addrCw := rfl
@[simp] theorem State.setResult_mem (s : State) (v : Word) : (s.setResult v).mem = s.mem := rfl
@[simp] theorem State.setResult_pending (s : State) (v : Word) : (s.setResult v).pending = s.pending := rfl
@[simp] theorem State.setResult_readData (s : State) (v : Word) : (s.setResult v).readData = s.readData := rfl

/-! ### `State.setAddrCw` -/

@[simp] theorem State.setAddrCw_msgPresent (s : State) (v : Word) : (s.setAddrCw v).msgPresent = s.msgPresent := rfl
@[simp] theorem State.setAddrCw_outPresent (s : State) (v : Word) : (s.setAddrCw v).outPresent = s.outPresent := rfl
@[simp] theorem State.setAddrCw_err (s : State) (v : Word) : (s.setAddrCw v).err = s.err := rfl
@[simp] theorem State.setAddrCw_stage (s : State) (v : Word) : (s.setAddrCw v).stage = s.stage := rfl
@[simp] theorem State.setAddrCw_sticky (s : State) (v : Word) : (s.setAddrCw v).sticky = s.sticky := rfl
@[simp] theorem State.setAddrCw_opa (s : State) (v : Word) : (s.setAddrCw v).opa = s.opa := rfl
@[simp] theorem State.setAddrCw_result (s : State) (v : Word) : (s.setAddrCw v).result = s.result := rfl
@[simp] theorem State.setAddrCw_msgLen (s : State) (v : Word) : (s.setAddrCw v).msgLen = s.msgLen := rfl
@[simp] theorem State.setAddrCw_packCap (s : State) (v : Word) : (s.setAddrCw v).packCap = s.packCap := rfl
@[simp] theorem State.setAddrCw_cwCap (s : State) (v : Word) : (s.setAddrCw v).cwCap = s.cwCap := rfl
@[simp] theorem State.setAddrCw_outCap (s : State) (v : Word) : (s.setAddrCw v).outCap = s.outCap := rfl
@[simp] theorem State.setAddrCw_packLen (s : State) (v : Word) : (s.setAddrCw v).packLen = s.packLen := rfl
@[simp] theorem State.setAddrCw_cwCount (s : State) (v : Word) : (s.setAddrCw v).cwCount = s.cwCount := rfl
@[simp] theorem State.setAddrCw_outLen (s : State) (v : Word) : (s.setAddrCw v).outLen = s.outLen := rfl
@[simp] theorem State.setAddrCw_addrCw (s : State) (v : Word) : (s.setAddrCw v).addrCw = v := rfl
@[simp] theorem State.setAddrCw_mem (s : State) (v : Word) : (s.setAddrCw v).mem = s.mem := rfl
@[simp] theorem State.setAddrCw_pending (s : State) (v : Word) : (s.setAddrCw v).pending = s.pending := rfl
@[simp] theorem State.setAddrCw_readData (s : State) (v : Word) : (s.setAddrCw v).readData = s.readData := rfl

/-! ### `State.setPackLen` -/

@[simp] theorem State.setPackLen_msgPresent (s : State) (n : Nat) : (s.setPackLen n).msgPresent = s.msgPresent := rfl
@[simp] theorem State.setPackLen_outPresent (s : State) (n : Nat) : (s.setPackLen n).outPresent = s.outPresent := rfl
@[simp] theorem State.setPackLen_err (s : State) (n : Nat) : (s.setPackLen n).err = s.err := rfl
@[simp] theorem State.setPackLen_stage (s : State) (n : Nat) : (s.setPackLen n).stage = s.stage := rfl
@[simp] theorem State.setPackLen_sticky (s : State) (n : Nat) : (s.setPackLen n).sticky = s.sticky := rfl
@[simp] theorem State.setPackLen_opa (s : State) (n : Nat) : (s.setPackLen n).opa = s.opa := rfl
@[simp] theorem State.setPackLen_result (s : State) (n : Nat) : (s.setPackLen n).result = s.result := rfl
@[simp] theorem State.setPackLen_msgLen (s : State) (n : Nat) : (s.setPackLen n).msgLen = s.msgLen := rfl
@[simp] theorem State.setPackLen_packCap (s : State) (n : Nat) : (s.setPackLen n).packCap = s.packCap := rfl
@[simp] theorem State.setPackLen_cwCap (s : State) (n : Nat) : (s.setPackLen n).cwCap = s.cwCap := rfl
@[simp] theorem State.setPackLen_outCap (s : State) (n : Nat) : (s.setPackLen n).outCap = s.outCap := rfl
@[simp] theorem State.setPackLen_packLen (s : State) (n : Nat) : (s.setPackLen n).packLen = BitVec.ofNat 8 n := rfl
@[simp] theorem State.setPackLen_cwCount (s : State) (n : Nat) : (s.setPackLen n).cwCount = s.cwCount := rfl
@[simp] theorem State.setPackLen_outLen (s : State) (n : Nat) : (s.setPackLen n).outLen = s.outLen := rfl
@[simp] theorem State.setPackLen_addrCw (s : State) (n : Nat) : (s.setPackLen n).addrCw = s.addrCw := rfl
@[simp] theorem State.setPackLen_mem (s : State) (n : Nat) : (s.setPackLen n).mem = s.mem := rfl
@[simp] theorem State.setPackLen_pending (s : State) (n : Nat) : (s.setPackLen n).pending = s.pending := rfl
@[simp] theorem State.setPackLen_readData (s : State) (n : Nat) : (s.setPackLen n).readData = s.readData := rfl

/-! ### `State.setCwCount` -/

@[simp] theorem State.setCwCount_msgPresent (s : State) (n : Nat) : (s.setCwCount n).msgPresent = s.msgPresent := rfl
@[simp] theorem State.setCwCount_outPresent (s : State) (n : Nat) : (s.setCwCount n).outPresent = s.outPresent := rfl
@[simp] theorem State.setCwCount_err (s : State) (n : Nat) : (s.setCwCount n).err = s.err := rfl
@[simp] theorem State.setCwCount_stage (s : State) (n : Nat) : (s.setCwCount n).stage = s.stage := rfl
@[simp] theorem State.setCwCount_sticky (s : State) (n : Nat) : (s.setCwCount n).sticky = s.sticky := rfl
@[simp] theorem State.setCwCount_opa (s : State) (n : Nat) : (s.setCwCount n).opa = s.opa := rfl
@[simp] theorem State.setCwCount_result (s : State) (n : Nat) : (s.setCwCount n).result = s.result := rfl
@[simp] theorem State.setCwCount_msgLen (s : State) (n : Nat) : (s.setCwCount n).msgLen = s.msgLen := rfl
@[simp] theorem State.setCwCount_packCap (s : State) (n : Nat) : (s.setCwCount n).packCap = s.packCap := rfl
@[simp] theorem State.setCwCount_cwCap (s : State) (n : Nat) : (s.setCwCount n).cwCap = s.cwCap := rfl
@[simp] theorem State.setCwCount_outCap (s : State) (n : Nat) : (s.setCwCount n).outCap = s.outCap := rfl
@[simp] theorem State.setCwCount_packLen (s : State) (n : Nat) : (s.setCwCount n).packLen = s.packLen := rfl
@[simp] theorem State.setCwCount_cwCount (s : State) (n : Nat) : (s.setCwCount n).cwCount = BitVec.ofNat 8 n := rfl
@[simp] theorem State.setCwCount_outLen (s : State) (n : Nat) : (s.setCwCount n).outLen = s.outLen := rfl
@[simp] theorem State.setCwCount_addrCw (s : State) (n : Nat) : (s.setCwCount n).addrCw = s.addrCw := rfl
@[simp] theorem State.setCwCount_mem (s : State) (n : Nat) : (s.setCwCount n).mem = s.mem := rfl
@[simp] theorem State.setCwCount_pending (s : State) (n : Nat) : (s.setCwCount n).pending = s.pending := rfl
@[simp] theorem State.setCwCount_readData (s : State) (n : Nat) : (s.setCwCount n).readData = s.readData := rfl

/-! ### `State.setOutLen` -/

@[simp] theorem State.setOutLen_msgPresent (s : State) (n : Nat) : (s.setOutLen n).msgPresent = s.msgPresent := rfl
@[simp] theorem State.setOutLen_outPresent (s : State) (n : Nat) : (s.setOutLen n).outPresent = s.outPresent := rfl
@[simp] theorem State.setOutLen_err (s : State) (n : Nat) : (s.setOutLen n).err = s.err := rfl
@[simp] theorem State.setOutLen_stage (s : State) (n : Nat) : (s.setOutLen n).stage = s.stage := rfl
@[simp] theorem State.setOutLen_sticky (s : State) (n : Nat) : (s.setOutLen n).sticky = s.sticky := rfl
@[simp] theorem State.setOutLen_opa (s : State) (n : Nat) : (s.setOutLen n).opa = s.opa := rfl
@[simp] theorem State.setOutLen_result (s : State) (n : Nat) : (s.setOutLen n).result = s.result := rfl
@[simp] theorem State.setOutLen_msgLen (s : State) (n : Nat) : (s.setOutLen n).msgLen = s.msgLen := rfl
@[simp] theorem State.setOutLen_packCap (s : State) (n : Nat) : (s.setOutLen n).packCap = s.packCap := rfl
@[simp] theorem State.setOutLen_cwCap (s : State) (n : Nat) : (s.setOutLen n).cwCap = s.cwCap := rfl
@[simp] theorem State.setOutLen_outCap (s : State) (n : Nat) : (s.setOutLen n).outCap = s.outCap := rfl
@[simp] theorem State.setOutLen_packLen (s : State) (n : Nat) : (s.setOutLen n).packLen = s.packLen := rfl
@[simp] theorem State.setOutLen_cwCount (s : State) (n : Nat) : (s.setOutLen n).cwCount = s.cwCount := rfl
@[simp] theorem State.setOutLen_outLen (s : State) (n : Nat) : (s.setOutLen n).outLen = BitVec.ofNat 8 n := rfl
@[simp] theorem State.setOutLen_addrCw (s : State) (n : Nat) : (s.setOutLen n).addrCw = s.addrCw := rfl
@[simp] theorem State.setOutLen_mem (s : State) (n : Nat) : (s.setOutLen n).mem = s.mem := rfl
@[simp] theorem State.setOutLen_pending (s : State) (n : Nat) : (s.setOutLen n).pending = s.pending := rfl
@[simp] theorem State.setOutLen_readData (s : State) (n : Nat) : (s.setOutLen n).readData = s.readData := rfl

/-! ### `State.setCtrl` -/

@[simp] theorem State.setCtrl_msgPresent (s : State) (v : Word) : (s.setCtrl v).msgPresent = v.getLsbD 0 := rfl
@[simp] theorem State.setCtrl_outPresent (s : State) (v : Word) : (s.setCtrl v).outPresent = v.getLsbD 1 := rfl
@[simp] theorem State.setCtrl_err (s : State) (v : Word) : (s.setCtrl v).err = s.err := rfl
@[simp] theorem State.setCtrl_stage (s : State) (v : Word) : (s.setCtrl v).stage = s.stage := rfl
@[simp] theorem State.setCtrl_sticky (s : State) (v : Word) : (s.setCtrl v).sticky = s.sticky := rfl
@[simp] theorem State.setCtrl_opa (s : State) (v : Word) : (s.setCtrl v).opa = s.opa := rfl
@[simp] theorem State.setCtrl_result (s : State) (v : Word) : (s.setCtrl v).result = s.result := rfl
@[simp] theorem State.setCtrl_msgLen (s : State) (v : Word) : (s.setCtrl v).msgLen = s.msgLen := rfl
@[simp] theorem State.setCtrl_packCap (s : State) (v : Word) : (s.setCtrl v).packCap = s.packCap := rfl
@[simp] theorem State.setCtrl_cwCap (s : State) (v : Word) : (s.setCtrl v).cwCap = s.cwCap := rfl
@[simp] theorem State.setCtrl_outCap (s : State) (v : Word) : (s.setCtrl v).outCap = s.outCap := rfl
@[simp] theorem State.setCtrl_packLen (s : State) (v : Word) : (s.setCtrl v).packLen = s.packLen := rfl
@[simp] theorem State.setCtrl_cwCount (s : State) (v : Word) : (s.setCtrl v).cwCount = s.cwCount := rfl
@[simp] theorem State.setCtrl_outLen (s : State) (v : Word) : (s.setCtrl v).outLen = s.outLen := rfl
@[simp] theorem State.setCtrl_addrCw (s : State) (v : Word) : (s.setCtrl v).addrCw = s.addrCw := rfl
@[simp] theorem State.setCtrl_mem (s : State) (v : Word) : (s.setCtrl v).mem = s.mem := rfl
@[simp] theorem State.setCtrl_pending (s : State) (v : Word) : (s.setCtrl v).pending = s.pending := rfl
@[simp] theorem State.setCtrl_readData (s : State) (v : Word) : (s.setCtrl v).readData = s.readData := rfl

/-! ### `State.clearSticky` -/

@[simp] theorem State.clearSticky_msgPresent (s : State) (v : Word) :
    (s.clearSticky v).msgPresent = s.msgPresent := rfl
@[simp] theorem State.clearSticky_outPresent (s : State) (v : Word) :
    (s.clearSticky v).outPresent = s.outPresent := rfl
@[simp] theorem State.clearSticky_err (s : State) (v : Word) : (s.clearSticky v).err = s.err := rfl
@[simp] theorem State.clearSticky_stage (s : State) (v : Word) : (s.clearSticky v).stage = s.stage := rfl
@[simp] theorem State.clearSticky_sticky (s : State) (v : Word) :
    (s.clearSticky v).sticky = stickyW1C v s.sticky := rfl
@[simp] theorem State.clearSticky_opa (s : State) (v : Word) : (s.clearSticky v).opa = s.opa := rfl
@[simp] theorem State.clearSticky_result (s : State) (v : Word) : (s.clearSticky v).result = s.result := rfl
@[simp] theorem State.clearSticky_msgLen (s : State) (v : Word) : (s.clearSticky v).msgLen = s.msgLen := rfl
@[simp] theorem State.clearSticky_packCap (s : State) (v : Word) : (s.clearSticky v).packCap = s.packCap := rfl
@[simp] theorem State.clearSticky_cwCap (s : State) (v : Word) : (s.clearSticky v).cwCap = s.cwCap := rfl
@[simp] theorem State.clearSticky_outCap (s : State) (v : Word) : (s.clearSticky v).outCap = s.outCap := rfl
@[simp] theorem State.clearSticky_packLen (s : State) (v : Word) : (s.clearSticky v).packLen = s.packLen := rfl
@[simp] theorem State.clearSticky_cwCount (s : State) (v : Word) : (s.clearSticky v).cwCount = s.cwCount := rfl
@[simp] theorem State.clearSticky_outLen (s : State) (v : Word) : (s.clearSticky v).outLen = s.outLen := rfl
@[simp] theorem State.clearSticky_addrCw (s : State) (v : Word) : (s.clearSticky v).addrCw = s.addrCw := rfl
@[simp] theorem State.clearSticky_mem (s : State) (v : Word) : (s.clearSticky v).mem = s.mem := rfl
@[simp] theorem State.clearSticky_pending (s : State) (v : Word) : (s.clearSticky v).pending = s.pending := rfl
@[simp] theorem State.clearSticky_readData (s : State) (v : Word) : (s.clearSticky v).readData = s.readData := rfl

/-! ### `State.setOpa` -/

@[simp] theorem State.setOpa_msgPresent (s : State) (v : Word) : (s.setOpa v).msgPresent = s.msgPresent := rfl
@[simp] theorem State.setOpa_outPresent (s : State) (v : Word) : (s.setOpa v).outPresent = s.outPresent := rfl
@[simp] theorem State.setOpa_err (s : State) (v : Word) : (s.setOpa v).err = s.err := rfl
@[simp] theorem State.setOpa_stage (s : State) (v : Word) : (s.setOpa v).stage = s.stage := rfl
@[simp] theorem State.setOpa_sticky (s : State) (v : Word) : (s.setOpa v).sticky = s.sticky := rfl
@[simp] theorem State.setOpa_opa (s : State) (v : Word) : (s.setOpa v).opa = v := rfl
@[simp] theorem State.setOpa_result (s : State) (v : Word) : (s.setOpa v).result = s.result := rfl
@[simp] theorem State.setOpa_msgLen (s : State) (v : Word) : (s.setOpa v).msgLen = s.msgLen := rfl
@[simp] theorem State.setOpa_packCap (s : State) (v : Word) : (s.setOpa v).packCap = s.packCap := rfl
@[simp] theorem State.setOpa_cwCap (s : State) (v : Word) : (s.setOpa v).cwCap = s.cwCap := rfl
@[simp] theorem State.setOpa_outCap (s : State) (v : Word) : (s.setOpa v).outCap = s.outCap := rfl
@[simp] theorem State.setOpa_packLen (s : State) (v : Word) : (s.setOpa v).packLen = s.packLen := rfl
@[simp] theorem State.setOpa_cwCount (s : State) (v : Word) : (s.setOpa v).cwCount = s.cwCount := rfl
@[simp] theorem State.setOpa_outLen (s : State) (v : Word) : (s.setOpa v).outLen = s.outLen := rfl
@[simp] theorem State.setOpa_addrCw (s : State) (v : Word) : (s.setOpa v).addrCw = s.addrCw := rfl
@[simp] theorem State.setOpa_mem (s : State) (v : Word) : (s.setOpa v).mem = s.mem := rfl
@[simp] theorem State.setOpa_pending (s : State) (v : Word) : (s.setOpa v).pending = s.pending := rfl
@[simp] theorem State.setOpa_readData (s : State) (v : Word) : (s.setOpa v).readData = s.readData := rfl

/-! ### `State.setMsgLen` -/

@[simp] theorem State.setMsgLen_msgPresent (s : State) (v : Word) : (s.setMsgLen v).msgPresent = s.msgPresent := rfl
@[simp] theorem State.setMsgLen_outPresent (s : State) (v : Word) : (s.setMsgLen v).outPresent = s.outPresent := rfl
@[simp] theorem State.setMsgLen_err (s : State) (v : Word) : (s.setMsgLen v).err = s.err := rfl
@[simp] theorem State.setMsgLen_stage (s : State) (v : Word) : (s.setMsgLen v).stage = s.stage := rfl
@[simp] theorem State.setMsgLen_sticky (s : State) (v : Word) : (s.setMsgLen v).sticky = s.sticky := rfl
@[simp] theorem State.setMsgLen_opa (s : State) (v : Word) : (s.setMsgLen v).opa = s.opa := rfl
@[simp] theorem State.setMsgLen_result (s : State) (v : Word) : (s.setMsgLen v).result = s.result := rfl
@[simp] theorem State.setMsgLen_msgLen (s : State) (v : Word) : (s.setMsgLen v).msgLen = v.setWidth 8 := rfl
@[simp] theorem State.setMsgLen_packCap (s : State) (v : Word) : (s.setMsgLen v).packCap = s.packCap := rfl
@[simp] theorem State.setMsgLen_cwCap (s : State) (v : Word) : (s.setMsgLen v).cwCap = s.cwCap := rfl
@[simp] theorem State.setMsgLen_outCap (s : State) (v : Word) : (s.setMsgLen v).outCap = s.outCap := rfl
@[simp] theorem State.setMsgLen_packLen (s : State) (v : Word) : (s.setMsgLen v).packLen = s.packLen := rfl
@[simp] theorem State.setMsgLen_cwCount (s : State) (v : Word) : (s.setMsgLen v).cwCount = s.cwCount := rfl
@[simp] theorem State.setMsgLen_outLen (s : State) (v : Word) : (s.setMsgLen v).outLen = s.outLen := rfl
@[simp] theorem State.setMsgLen_addrCw (s : State) (v : Word) : (s.setMsgLen v).addrCw = s.addrCw := rfl
@[simp] theorem State.setMsgLen_mem (s : State) (v : Word) : (s.setMsgLen v).mem = s.mem := rfl
@[simp] theorem State.setMsgLen_pending (s : State) (v : Word) : (s.setMsgLen v).pending = s.pending := rfl
@[simp] theorem State.setMsgLen_readData (s : State) (v : Word) : (s.setMsgLen v).readData = s.readData := rfl

/-! ### `State.setPackCap` -/

@[simp] theorem State.setPackCap_msgPresent (s : State) (v : Word) : (s.setPackCap v).msgPresent = s.msgPresent := rfl
@[simp] theorem State.setPackCap_outPresent (s : State) (v : Word) : (s.setPackCap v).outPresent = s.outPresent := rfl
@[simp] theorem State.setPackCap_err (s : State) (v : Word) : (s.setPackCap v).err = s.err := rfl
@[simp] theorem State.setPackCap_stage (s : State) (v : Word) : (s.setPackCap v).stage = s.stage := rfl
@[simp] theorem State.setPackCap_sticky (s : State) (v : Word) : (s.setPackCap v).sticky = s.sticky := rfl
@[simp] theorem State.setPackCap_opa (s : State) (v : Word) : (s.setPackCap v).opa = s.opa := rfl
@[simp] theorem State.setPackCap_result (s : State) (v : Word) : (s.setPackCap v).result = s.result := rfl
@[simp] theorem State.setPackCap_msgLen (s : State) (v : Word) : (s.setPackCap v).msgLen = s.msgLen := rfl
@[simp] theorem State.setPackCap_packCap (s : State) (v : Word) : (s.setPackCap v).packCap = v.setWidth 8 := rfl
@[simp] theorem State.setPackCap_cwCap (s : State) (v : Word) : (s.setPackCap v).cwCap = s.cwCap := rfl
@[simp] theorem State.setPackCap_outCap (s : State) (v : Word) : (s.setPackCap v).outCap = s.outCap := rfl
@[simp] theorem State.setPackCap_packLen (s : State) (v : Word) : (s.setPackCap v).packLen = s.packLen := rfl
@[simp] theorem State.setPackCap_cwCount (s : State) (v : Word) : (s.setPackCap v).cwCount = s.cwCount := rfl
@[simp] theorem State.setPackCap_outLen (s : State) (v : Word) : (s.setPackCap v).outLen = s.outLen := rfl
@[simp] theorem State.setPackCap_addrCw (s : State) (v : Word) : (s.setPackCap v).addrCw = s.addrCw := rfl
@[simp] theorem State.setPackCap_mem (s : State) (v : Word) : (s.setPackCap v).mem = s.mem := rfl
@[simp] theorem State.setPackCap_pending (s : State) (v : Word) : (s.setPackCap v).pending = s.pending := rfl
@[simp] theorem State.setPackCap_readData (s : State) (v : Word) : (s.setPackCap v).readData = s.readData := rfl

/-! ### `State.setCwCap` -/

@[simp] theorem State.setCwCap_msgPresent (s : State) (v : Word) : (s.setCwCap v).msgPresent = s.msgPresent := rfl
@[simp] theorem State.setCwCap_outPresent (s : State) (v : Word) : (s.setCwCap v).outPresent = s.outPresent := rfl
@[simp] theorem State.setCwCap_err (s : State) (v : Word) : (s.setCwCap v).err = s.err := rfl
@[simp] theorem State.setCwCap_stage (s : State) (v : Word) : (s.setCwCap v).stage = s.stage := rfl
@[simp] theorem State.setCwCap_sticky (s : State) (v : Word) : (s.setCwCap v).sticky = s.sticky := rfl
@[simp] theorem State.setCwCap_opa (s : State) (v : Word) : (s.setCwCap v).opa = s.opa := rfl
@[simp] theorem State.setCwCap_result (s : State) (v : Word) : (s.setCwCap v).result = s.result := rfl
@[simp] theorem State.setCwCap_msgLen (s : State) (v : Word) : (s.setCwCap v).msgLen = s.msgLen := rfl
@[simp] theorem State.setCwCap_packCap (s : State) (v : Word) : (s.setCwCap v).packCap = s.packCap := rfl
@[simp] theorem State.setCwCap_cwCap (s : State) (v : Word) : (s.setCwCap v).cwCap = v.setWidth 8 := rfl
@[simp] theorem State.setCwCap_outCap (s : State) (v : Word) : (s.setCwCap v).outCap = s.outCap := rfl
@[simp] theorem State.setCwCap_packLen (s : State) (v : Word) : (s.setCwCap v).packLen = s.packLen := rfl
@[simp] theorem State.setCwCap_cwCount (s : State) (v : Word) : (s.setCwCap v).cwCount = s.cwCount := rfl
@[simp] theorem State.setCwCap_outLen (s : State) (v : Word) : (s.setCwCap v).outLen = s.outLen := rfl
@[simp] theorem State.setCwCap_addrCw (s : State) (v : Word) : (s.setCwCap v).addrCw = s.addrCw := rfl
@[simp] theorem State.setCwCap_mem (s : State) (v : Word) : (s.setCwCap v).mem = s.mem := rfl
@[simp] theorem State.setCwCap_pending (s : State) (v : Word) : (s.setCwCap v).pending = s.pending := rfl
@[simp] theorem State.setCwCap_readData (s : State) (v : Word) : (s.setCwCap v).readData = s.readData := rfl

/-! ### `State.setOutCap` -/

@[simp] theorem State.setOutCap_msgPresent (s : State) (v : Word) : (s.setOutCap v).msgPresent = s.msgPresent := rfl
@[simp] theorem State.setOutCap_outPresent (s : State) (v : Word) : (s.setOutCap v).outPresent = s.outPresent := rfl
@[simp] theorem State.setOutCap_err (s : State) (v : Word) : (s.setOutCap v).err = s.err := rfl
@[simp] theorem State.setOutCap_stage (s : State) (v : Word) : (s.setOutCap v).stage = s.stage := rfl
@[simp] theorem State.setOutCap_sticky (s : State) (v : Word) : (s.setOutCap v).sticky = s.sticky := rfl
@[simp] theorem State.setOutCap_opa (s : State) (v : Word) : (s.setOutCap v).opa = s.opa := rfl
@[simp] theorem State.setOutCap_result (s : State) (v : Word) : (s.setOutCap v).result = s.result := rfl
@[simp] theorem State.setOutCap_msgLen (s : State) (v : Word) : (s.setOutCap v).msgLen = s.msgLen := rfl
@[simp] theorem State.setOutCap_packCap (s : State) (v : Word) : (s.setOutCap v).packCap = s.packCap := rfl
@[simp] theorem State.setOutCap_cwCap (s : State) (v : Word) : (s.setOutCap v).cwCap = s.cwCap := rfl
@[simp] theorem State.setOutCap_outCap (s : State) (v : Word) : (s.setOutCap v).outCap = v.setWidth 8 := rfl
@[simp] theorem State.setOutCap_packLen (s : State) (v : Word) : (s.setOutCap v).packLen = s.packLen := rfl
@[simp] theorem State.setOutCap_cwCount (s : State) (v : Word) : (s.setOutCap v).cwCount = s.cwCount := rfl
@[simp] theorem State.setOutCap_outLen (s : State) (v : Word) : (s.setOutCap v).outLen = s.outLen := rfl
@[simp] theorem State.setOutCap_addrCw (s : State) (v : Word) : (s.setOutCap v).addrCw = s.addrCw := rfl
@[simp] theorem State.setOutCap_mem (s : State) (v : Word) : (s.setOutCap v).mem = s.mem := rfl
@[simp] theorem State.setOutCap_pending (s : State) (v : Word) : (s.setOutCap v).pending = s.pending := rfl
@[simp] theorem State.setOutCap_readData (s : State) (v : Word) : (s.setOutCap v).readData = s.readData := rfl

/-! ### `State.complete` -/

@[simp] theorem State.complete_msgPresent (s : State) (e : ErrCode) (g : Stage) :
    (s.complete e g).msgPresent = s.msgPresent := rfl
@[simp] theorem State.complete_outPresent (s : State) (e : ErrCode) (g : Stage) :
    (s.complete e g).outPresent = s.outPresent := rfl
@[simp] theorem State.complete_err (s : State) (e : ErrCode) (g : Stage) : (s.complete e g).err = e := rfl
@[simp] theorem State.complete_stage (s : State) (e : ErrCode) (g : Stage) : (s.complete e g).stage = g := rfl
@[simp] theorem State.complete_sticky (s : State) (e : ErrCode) (g : Stage) :
    (s.complete e g).sticky = stickyAfter e s.sticky := rfl
@[simp] theorem State.complete_opa (s : State) (e : ErrCode) (g : Stage) : (s.complete e g).opa = s.opa := rfl
@[simp] theorem State.complete_result (s : State) (e : ErrCode) (g : Stage) :
    (s.complete e g).result = s.result := rfl
@[simp] theorem State.complete_msgLen (s : State) (e : ErrCode) (g : Stage) :
    (s.complete e g).msgLen = s.msgLen := rfl
@[simp] theorem State.complete_packCap (s : State) (e : ErrCode) (g : Stage) :
    (s.complete e g).packCap = s.packCap := rfl
@[simp] theorem State.complete_cwCap (s : State) (e : ErrCode) (g : Stage) : (s.complete e g).cwCap = s.cwCap := rfl
@[simp] theorem State.complete_outCap (s : State) (e : ErrCode) (g : Stage) :
    (s.complete e g).outCap = s.outCap := rfl
@[simp] theorem State.complete_packLen (s : State) (e : ErrCode) (g : Stage) :
    (s.complete e g).packLen = s.packLen := rfl
@[simp] theorem State.complete_cwCount (s : State) (e : ErrCode) (g : Stage) :
    (s.complete e g).cwCount = s.cwCount := rfl
@[simp] theorem State.complete_outLen (s : State) (e : ErrCode) (g : Stage) :
    (s.complete e g).outLen = s.outLen := rfl
@[simp] theorem State.complete_addrCw (s : State) (e : ErrCode) (g : Stage) :
    (s.complete e g).addrCw = s.addrCw := rfl
@[simp] theorem State.complete_mem (s : State) (e : ErrCode) (g : Stage) : (s.complete e g).mem = s.mem := rfl
@[simp] theorem State.complete_pending (s : State) (e : ErrCode) (g : Stage) :
    (s.complete e g).pending = s.pending := rfl
@[simp] theorem State.complete_readData (s : State) (e : ErrCode) (g : Stage) :
    (s.complete e g).readData = s.readData := rfl

/-! ### `State.accept` -/

@[simp] theorem State.accept_msgPresent (s : State) (rest : List BusEvent) :
    (s.accept rest).msgPresent = s.msgPresent := rfl
@[simp] theorem State.accept_outPresent (s : State) (rest : List BusEvent) :
    (s.accept rest).outPresent = s.outPresent := rfl
@[simp] theorem State.accept_err (s : State) (rest : List BusEvent) : (s.accept rest).err = s.err := rfl
@[simp] theorem State.accept_stage (s : State) (rest : List BusEvent) : (s.accept rest).stage = s.stage := rfl
@[simp] theorem State.accept_sticky (s : State) (rest : List BusEvent) : (s.accept rest).sticky = s.sticky := rfl
@[simp] theorem State.accept_opa (s : State) (rest : List BusEvent) : (s.accept rest).opa = s.opa := rfl
@[simp] theorem State.accept_result (s : State) (rest : List BusEvent) : (s.accept rest).result = s.result := rfl
@[simp] theorem State.accept_msgLen (s : State) (rest : List BusEvent) : (s.accept rest).msgLen = s.msgLen := rfl
@[simp] theorem State.accept_packCap (s : State) (rest : List BusEvent) : (s.accept rest).packCap = s.packCap := rfl
@[simp] theorem State.accept_cwCap (s : State) (rest : List BusEvent) : (s.accept rest).cwCap = s.cwCap := rfl
@[simp] theorem State.accept_outCap (s : State) (rest : List BusEvent) : (s.accept rest).outCap = s.outCap := rfl
@[simp] theorem State.accept_packLen (s : State) (rest : List BusEvent) : (s.accept rest).packLen = s.packLen := rfl
@[simp] theorem State.accept_cwCount (s : State) (rest : List BusEvent) : (s.accept rest).cwCount = s.cwCount := rfl
@[simp] theorem State.accept_outLen (s : State) (rest : List BusEvent) : (s.accept rest).outLen = s.outLen := rfl
@[simp] theorem State.accept_addrCw (s : State) (rest : List BusEvent) : (s.accept rest).addrCw = s.addrCw := rfl
@[simp] theorem State.accept_mem (s : State) (rest : List BusEvent) : (s.accept rest).mem = s.mem := rfl
@[simp] theorem State.accept_pending (s : State) (rest : List BusEvent) : (s.accept rest).pending = rest := rfl
@[simp] theorem State.accept_readData (s : State) (rest : List BusEvent) :
    (s.accept rest).readData = Option.none := rfl

/-! ### `State.respond` -/

@[simp] theorem State.respond_msgPresent (s : State) (v : Word) : (s.respond v).msgPresent = s.msgPresent := rfl
@[simp] theorem State.respond_outPresent (s : State) (v : Word) : (s.respond v).outPresent = s.outPresent := rfl
@[simp] theorem State.respond_err (s : State) (v : Word) : (s.respond v).err = s.err := rfl
@[simp] theorem State.respond_stage (s : State) (v : Word) : (s.respond v).stage = s.stage := rfl
@[simp] theorem State.respond_sticky (s : State) (v : Word) : (s.respond v).sticky = s.sticky := rfl
@[simp] theorem State.respond_opa (s : State) (v : Word) : (s.respond v).opa = s.opa := rfl
@[simp] theorem State.respond_result (s : State) (v : Word) : (s.respond v).result = s.result := rfl
@[simp] theorem State.respond_msgLen (s : State) (v : Word) : (s.respond v).msgLen = s.msgLen := rfl
@[simp] theorem State.respond_packCap (s : State) (v : Word) : (s.respond v).packCap = s.packCap := rfl
@[simp] theorem State.respond_cwCap (s : State) (v : Word) : (s.respond v).cwCap = s.cwCap := rfl
@[simp] theorem State.respond_outCap (s : State) (v : Word) : (s.respond v).outCap = s.outCap := rfl
@[simp] theorem State.respond_packLen (s : State) (v : Word) : (s.respond v).packLen = s.packLen := rfl
@[simp] theorem State.respond_cwCount (s : State) (v : Word) : (s.respond v).cwCount = s.cwCount := rfl
@[simp] theorem State.respond_outLen (s : State) (v : Word) : (s.respond v).outLen = s.outLen := rfl
@[simp] theorem State.respond_addrCw (s : State) (v : Word) : (s.respond v).addrCw = s.addrCw := rfl
@[simp] theorem State.respond_mem (s : State) (v : Word) : (s.respond v).mem = s.mem := rfl
@[simp] theorem State.respond_pending (s : State) (v : Word) : (s.respond v).pending = s.pending := rfl
@[simp] theorem State.respond_readData (s : State) (v : Word) : (s.respond v).readData = some v := rfl

/-! ### `State.encodeIntermediates` -/

@[simp] theorem State.encodeIntermediates_msgPresent (s : State) :
    s.encodeIntermediates.msgPresent = s.msgPresent := by simp [State.encodeIntermediates]
@[simp] theorem State.encodeIntermediates_outPresent (s : State) :
    s.encodeIntermediates.outPresent = s.outPresent := by simp [State.encodeIntermediates]
@[simp] theorem State.encodeIntermediates_err (s : State) :
    s.encodeIntermediates.err = s.err := by simp [State.encodeIntermediates]
@[simp] theorem State.encodeIntermediates_stage (s : State) :
    s.encodeIntermediates.stage = s.stage := by simp [State.encodeIntermediates]
@[simp] theorem State.encodeIntermediates_sticky (s : State) :
    s.encodeIntermediates.sticky = s.sticky := by simp [State.encodeIntermediates]
@[simp] theorem State.encodeIntermediates_opa (s : State) :
    s.encodeIntermediates.opa = s.opa := by simp [State.encodeIntermediates]
@[simp] theorem State.encodeIntermediates_result (s : State) :
    s.encodeIntermediates.result = s.result := by simp [State.encodeIntermediates]
@[simp] theorem State.encodeIntermediates_msgLen (s : State) :
    s.encodeIntermediates.msgLen = s.msgLen := by simp [State.encodeIntermediates]
@[simp] theorem State.encodeIntermediates_packCap (s : State) :
    s.encodeIntermediates.packCap = s.packCap := by simp [State.encodeIntermediates]
@[simp] theorem State.encodeIntermediates_cwCap (s : State) :
    s.encodeIntermediates.cwCap = s.cwCap := by simp [State.encodeIntermediates]
@[simp] theorem State.encodeIntermediates_outCap (s : State) :
    s.encodeIntermediates.outCap = s.outCap := by simp [State.encodeIntermediates]
@[simp] theorem State.encodeIntermediates_packLen (s : State) :
    s.encodeIntermediates.packLen = BitVec.ofNat 8 (packedLen (msgLenOperand s)) := by simp [State.encodeIntermediates]
@[simp] theorem State.encodeIntermediates_cwCount (s : State) :
    s.encodeIntermediates.cwCount = BitVec.ofNat 8 (msgCount (packedLen (msgLenOperand s))) := by simp [State.encodeIntermediates]
@[simp] theorem State.encodeIntermediates_outLen (s : State) :
    s.encodeIntermediates.outLen = s.outLen := by simp [State.encodeIntermediates]
@[simp] theorem State.encodeIntermediates_addrCw (s : State) :
    s.encodeIntermediates.addrCw = addrCodeword Config.paritySpan (opaWord s) := by simp [State.encodeIntermediates]
@[simp] theorem State.encodeIntermediates_pending (s : State) :
    s.encodeIntermediates.pending = s.pending := by simp [State.encodeIntermediates]
@[simp] theorem State.encodeIntermediates_readData (s : State) :
    s.encodeIntermediates.readData = s.readData := by simp [State.encodeIntermediates]

/-! ### `State.resetBlock` -/

@[simp] theorem State.resetBlock_msgPresent (s : State) : s.resetBlock.msgPresent = State.reset.msgPresent := rfl
@[simp] theorem State.resetBlock_outPresent (s : State) : s.resetBlock.outPresent = State.reset.outPresent := rfl
@[simp] theorem State.resetBlock_err (s : State) : s.resetBlock.err = State.reset.err := rfl
@[simp] theorem State.resetBlock_stage (s : State) : s.resetBlock.stage = State.reset.stage := rfl
@[simp] theorem State.resetBlock_sticky (s : State) : s.resetBlock.sticky = State.reset.sticky := rfl
@[simp] theorem State.resetBlock_opa (s : State) : s.resetBlock.opa = State.reset.opa := rfl
@[simp] theorem State.resetBlock_result (s : State) : s.resetBlock.result = State.reset.result := rfl
@[simp] theorem State.resetBlock_msgLen (s : State) : s.resetBlock.msgLen = State.reset.msgLen := rfl
@[simp] theorem State.resetBlock_packCap (s : State) : s.resetBlock.packCap = State.reset.packCap := rfl
@[simp] theorem State.resetBlock_cwCap (s : State) : s.resetBlock.cwCap = State.reset.cwCap := rfl
@[simp] theorem State.resetBlock_outCap (s : State) : s.resetBlock.outCap = State.reset.outCap := rfl
@[simp] theorem State.resetBlock_packLen (s : State) : s.resetBlock.packLen = State.reset.packLen := rfl
@[simp] theorem State.resetBlock_cwCount (s : State) : s.resetBlock.cwCount = State.reset.cwCount := rfl
@[simp] theorem State.resetBlock_outLen (s : State) : s.resetBlock.outLen = State.reset.outLen := rfl
@[simp] theorem State.resetBlock_addrCw (s : State) : s.resetBlock.addrCw = State.reset.addrCw := rfl
@[simp] theorem State.resetBlock_mem (s : State) : s.resetBlock.mem = State.reset.mem := rfl
@[simp] theorem State.resetBlock_pending (s : State) : s.resetBlock.pending = s.pending := rfl
@[simp] theorem State.resetBlock_readData (s : State) : s.resetBlock.readData = State.reset.readData := rfl

/-! ### The reset values (R700) -/

@[simp] theorem State.reset_msgPresent : State.reset.msgPresent = false := rfl
@[simp] theorem State.reset_outPresent : State.reset.outPresent = false := rfl
@[simp] theorem State.reset_err : State.reset.err = .ok := rfl
@[simp] theorem State.reset_stage : State.reset.stage = .none := rfl
@[simp] theorem State.reset_sticky : State.reset.sticky = false := rfl
@[simp] theorem State.reset_opa : State.reset.opa = 0 := rfl
@[simp] theorem State.reset_result : State.reset.result = 0 := rfl
@[simp] theorem State.reset_msgLen : State.reset.msgLen = 0 := rfl
@[simp] theorem State.reset_packCap : State.reset.packCap = 35 := rfl
@[simp] theorem State.reset_cwCap : State.reset.cwCap = 12 := rfl
@[simp] theorem State.reset_outCap : State.reset.outCap = 128 := rfl
@[simp] theorem State.reset_packLen : State.reset.packLen = 0 := rfl
@[simp] theorem State.reset_cwCount : State.reset.cwCount = 0 := rfl
@[simp] theorem State.reset_outLen : State.reset.outLen = 0 := rfl
@[simp] theorem State.reset_addrCw : State.reset.addrCw = 0 := rfl
@[simp] theorem State.reset_mem : State.reset.mem = [] := rfl
@[simp] theorem State.reset_pending : State.reset.pending = [] := rfl
@[simp] theorem State.reset_readData : State.reset.readData = Option.none := rfl

end Sys2Proof.Machine
end

