-- ==== Sys2Proof/Laws/Memory.lean ====
section
/-! SUPPORT. The laws of the buffer store: a read after a store, and the canonical form every operation keeps. -/

namespace Sys2Proof.Machine

/-- Reading is looking the offset up. -/
theorem Memory.read_eq_find? (m : Memory) (a : Nat) :
    m.read a = ((m.find? fun c => c.1 == a).map (·.2)).getD unlistedByte := by
  induction m with
  | nil => rfl
  | cons c m ih =>
    by_cases h : c.1 = a
    · simp [Memory.read, h]
    · simp [Memory.read, h, ih]

@[simp] theorem Memory.read_nil (a : Nat) : Memory.read [] a = unlistedByte := rfl

/-- The cells of a block lie inside the block and hold its bytes. -/
theorem mem_cellsFrom {bs : List Byte} {a : Nat} {c : Host.Cell} (h : c ∈ cellsFrom a bs) :
    a ≤ c.1 ∧ c.1 < a + bs.length ∧ c.2 ≠ unlistedByte := by
  induction bs generalizing a with
  | nil => simp [cellsFrom] at h
  | cons b bs ih =>
    unfold cellsFrom at h
    split at h
    · obtain ⟨h1, h2, h3⟩ := ih h
      exact ⟨by omega, by simp only [List.length_cons]; omega, h3⟩
    · rcases List.mem_cons.1 h with rfl | h
      · exact ⟨le_rfl, by simp, by assumption⟩
      · obtain ⟨h1, h2, h3⟩ := ih h
        exact ⟨by omega, by simp only [List.length_cons]; omega, h3⟩

theorem cellsFrom_find?_outside {bs : List Byte} {a x : Nat} (h : x < a ∨ a + bs.length ≤ x) :
    (cellsFrom a bs).find? (fun c => c.1 == x) = none := by
  rw [List.find?_eq_none]
  intro c hc
  have := mem_cellsFrom hc
  simp only [beq_iff_eq]
  omega

theorem cellsFrom_read {bs : List Byte} {a x : Nat} (h : a ≤ x) :
    Memory.read (cellsFrom a bs) x = bs.getD (x - a) unlistedByte := by
  induction bs generalizing a with
  | nil => simp [cellsFrom]
  | cons b bs ih =>
    unfold cellsFrom
    by_cases hx : x = a
    · subst hx
      split
      · rename_i hb
        rw [Memory.read_eq_find?, cellsFrom_find?_outside (.inl (by omega))]
        simp [hb]
      · simp [Memory.read]
    · have hd : x - a = (x - (a + 1)) + 1 := by omega
      split
      · rw [ih (by omega), hd]; simp
      · rw [Memory.read, if_neg (by omega), ih (by omega), hd]; simp

/-- A READ AFTER A STORE: inside the block its byte, outside it the byte that was there. It holds of every store, in
canonical form or not. -/
theorem Memory.read_store (m : Memory) (a x : Nat) (bs : List Byte) :
    (m.store a bs).read x =
      if a ≤ x ∧ x < a + bs.length then bs.getD (x - a) unlistedByte else m.read x := by
  have find_lt : x < a → (m.filter fun c => c.1 < a).find? (fun c => c.1 == x) = m.find? fun c => c.1 == x := by
    intro hx
    rw [List.find?_filter]
    congr 1
    funext c
    by_cases hc : c.1 = x <;> simp [hc, hx]
  have find_ge : a + bs.length ≤ x →
      (m.filter fun c => a + bs.length ≤ c.1).find? (fun c => c.1 == x) = m.find? fun c => c.1 == x := by
    intro hx
    rw [List.find?_filter]
    congr 1
    funext c
    by_cases hc : c.1 = x <;> simp [hc, hx]
  have none_lt : a ≤ x → (m.filter fun c => c.1 < a).find? (fun c => c.1 == x) = none := by
    intro hx
    simp only [List.find?_eq_none, List.mem_filter, decide_eq_true_eq, beq_iff_eq]
    rintro c ⟨-, hc⟩
    omega
  have none_ge : x < a + bs.length →
      (m.filter fun c => a + bs.length ≤ c.1).find? (fun c => c.1 == x) = none := by
    intro hx
    simp only [List.find?_eq_none, List.mem_filter, decide_eq_true_eq, beq_iff_eq]
    rintro c ⟨-, hc⟩
    omega
  have cells : a ≤ x → (((cellsFrom a bs).find? fun c => c.1 == x).map (·.2)).getD unlistedByte =
      bs.getD (x - a) unlistedByte := fun hx => by
    rw [← Memory.read_eq_find?, cellsFrom_read hx]
  rw [Memory.read_eq_find?, Memory.read_eq_find?, Memory.store, List.find?_append, List.find?_append]
  by_cases h1 : x < a
  · rw [if_neg (by omega), find_lt h1, cellsFrom_find?_outside (.inl h1), none_ge (by omega)]
    simp
  · by_cases h2 : x < a + bs.length
    · rw [if_pos (by omega), none_lt (by omega), none_ge h2]
      simpa using cells (by omega)
    · rw [if_neg (by omega), none_lt (by omega), cellsFrom_find?_outside (.inr (by omega)), find_ge (by omega)]
      simp

theorem Memory.read_store_outside {m : Memory} {a x : Nat} {bs : List Byte} (h : x < a ∨ a + bs.length ≤ x) :
    (m.store a bs).read x = m.read x := by
  rw [Memory.read_store, if_neg (by omega)]

theorem Memory.read_store_inside {m : Memory} {a i : Nat} {bs : List Byte} (h : i < bs.length) :
    (m.store a bs).read (a + i) = bs[i] := by
  rw [Memory.read_store, if_pos (by omega), Nat.add_sub_cancel_left, List.getD_eq_getElem _ _ h]

/-- The cells of a block are in canonical form. -/
theorem cellsFrom_wf (a : Nat) (bs : List Byte) : Memory.wf (cellsFrom a bs) := by
  refine ⟨?_, fun c hc => (mem_cellsFrom hc).2.2⟩
  induction bs generalizing a with
  | nil => simp [cellsFrom]
  | cons b bs ih =>
    unfold cellsFrom
    split
    · exact ih _
    · refine List.pairwise_cons.2 ⟨fun c hc => ?_, ih _⟩
      have := mem_cellsFrom hc
      show a < c.1
      omega

/-- A store keeps the canonical form. -/
theorem Memory.store_wf {m : Memory} (h : m.wf) (a : Nat) (bs : List Byte) : (m.store a bs).wf := by
  obtain ⟨hs, hb⟩ := h
  refine ⟨?_, ?_⟩
  · refine List.pairwise_append.2 ⟨List.pairwise_append.2 ⟨hs.filter _, (cellsFrom_wf a bs).1, ?_⟩, hs.filter _, ?_⟩
    · intro c hc d hd
      have := mem_cellsFrom hd
      simp only [List.mem_filter, decide_eq_true_eq] at hc
      omega
    · intro c hc d hd
      simp only [List.mem_filter, decide_eq_true_eq, List.mem_append] at hc hd
      rcases hc with hc | hc
      · omega
      · have := mem_cellsFrom hc
        omega
  · intro c hc
    simp only [Memory.store, List.mem_append, List.mem_filter] at hc
    rcases hc with (hc | hc) | hc
    · exact hb c hc.1
    · exact (mem_cellsFrom hc).2.2
    · exact hb c hc.1

/-- A store lists no offset but those listed before and those it stores to. -/
theorem Memory.mem_store {m : Memory} {a : Nat} {bs : List Byte} {c : Host.Cell} (h : c ∈ m.store a bs) :
    c ∈ m ∨ (a ≤ c.1 ∧ c.1 < a + bs.length) := by
  simp only [Memory.store, List.mem_append, List.mem_filter] at h
  rcases h with (h | h) | h
  · exact .inl h.1
  · exact .inr ⟨(mem_cellsFrom h).1, (mem_cellsFrom h).2.1⟩
  · exact .inl h.1

theorem State.reset_mem_wf : State.reset.mem.wf := ⟨.nil, by simp⟩

@[simp] theorem Memory.readBytes_length (m : Memory) (a n : Nat) : (m.readBytes a n).length = n := by
  simp [Memory.readBytes]

@[simp] theorem Memory.readBytes_getElem (m : Memory) (a n i : Nat) (h : i < (m.readBytes a n).length) :
    (m.readBytes a n)[i] = m.read (a + i) := by
  simp [Memory.readBytes]

theorem Memory.readBytes_getD (m : Memory) (a n i : Nat) (d : Byte) :
    (m.readBytes a n).getD i d = if i < n then m.read (a + i) else d := by
  by_cases h : i < n <;> simp [Memory.readBytes, List.getD, h]

end Sys2Proof.Machine
end

