-- ==== Sys2Proof/Laws/Buffers.lean ====
section
/-! SUPPORT. The four buffers by name after each named store: the stored buffer holds what was stored, the other three
are as before (10_state R111 to R114). -/

namespace Sys2Proof.Machine

theorem State.packBuf_setPackBuf (s : State) {bs : List Byte} {j : Nat} (h : j < bs.length) :
    (s.setPackBuf bs).packBuf j = bs[j] := by
  rw [State.packBuf, State.setPackBuf_mem, Memory.read_store_inside h]

theorem State.msg_setPackBuf (s : State) (bs : List Byte) {i : Nat} (h : i < 40) :
    (s.setPackBuf bs).msg i = s.msg i :=
  Memory.read_store_outside (.inl (by simp only [Config.msgBase, Config.packBase]; omega))

theorem State.cwBuf_setPackBuf (s : State) {bs : List Byte} (k : Nat) (h : bs.length ≤ 35) :
    (s.setPackBuf bs).cwBuf k = s.cwBuf k := by
  have out : ∀ x, 0xC0 ≤ x → (s.mem.store Config.packBase bs).read x = s.mem.read x := fun x hx =>
    Memory.read_store_outside (.inr (by simp only [Config.packBase]; omega))
  simp only [State.cwBuf, State.setPackBuf_mem, Memory.readWord, Config.cwBase]
  rw [out _ (by omega), out _ (by omega), out _ (by omega), out _ (by omega)]

theorem State.outBuf_setPackBuf (s : State) {bs : List Byte} (j : Nat) (h : bs.length ≤ 35) :
    (s.setPackBuf bs).outBuf j = s.outBuf j :=
  Memory.read_store_outside (.inr (by simp only [Config.outBase, Config.packBase]; omega))

theorem State.cwBuf_setCwBuf (s : State) {ws : List Word} {k : Nat} (h : k < ws.length) :
    (s.setCwBuf ws).cwBuf k = ws[k] := by
  have hl := flatMap_four_length bytesLE_length ws
  have inside : ∀ i, i < 4 →
      (s.mem.store Config.cwBase (ws.flatMap bytesLE)).read (Config.cwBase + 4 * k + i) =
        (bytesLE ws[k]).getD i unlistedByte := by
    intro i hi
    rw [Memory.read_store, if_pos (by omega), Nat.add_assoc, Nat.add_sub_cancel_left,
      flatMap_four_getD bytesLE_length h hi]
  have h0 := inside 0 (by omega)
  have h1 := inside 1 (by omega)
  have h2 := inside 2 (by omega)
  have h3 := inside 3 (by omega)
  simp only [Nat.add_zero, bytesLE, List.getD_cons_zero, List.getD_cons_succ] at h0 h1 h2 h3
  simp only [State.cwBuf, State.setCwBuf_mem, Memory.readWord]
  rw [h0, h1, h2, h3, wordLE_bytesLE]

theorem State.msg_setCwBuf (s : State) (ws : List Word) {i : Nat} (h : i < 40) :
    (s.setCwBuf ws).msg i = s.msg i :=
  Memory.read_store_outside (.inl (by simp only [Config.msgBase, Config.cwBase]; omega))

theorem State.packBuf_setCwBuf (s : State) (ws : List Word) {j : Nat} (h : j < 35) :
    (s.setCwBuf ws).packBuf j = s.packBuf j :=
  Memory.read_store_outside (.inl (by simp only [Config.packBase, Config.cwBase]; omega))

theorem State.outBuf_setCwBuf (s : State) {ws : List Word} (j : Nat) (h : ws.length ≤ 12) :
    (s.setCwBuf ws).outBuf j = s.outBuf j :=
  Memory.read_store_outside (.inr (by
    rw [flatMap_four_length bytesLE_length]; simp only [Config.outBase, Config.cwBase]; omega))

theorem State.outBuf_setOutBuf (s : State) {bs : List Byte} {j : Nat} (h : j < bs.length) :
    (s.setOutBuf bs).outBuf j = bs[j] := by
  rw [State.outBuf, State.setOutBuf_mem, Memory.read_store_inside h]

theorem State.outBuf_setOutBuf_beyond (s : State) {bs : List Byte} {j : Nat} (h : bs.length ≤ j) :
    (s.setOutBuf bs).outBuf j = s.outBuf j :=
  Memory.read_store_outside (.inr (by omega))

theorem State.msg_setOutBuf (s : State) (bs : List Byte) {i : Nat} (h : i < 40) :
    (s.setOutBuf bs).msg i = s.msg i :=
  Memory.read_store_outside (.inl (by simp only [Config.msgBase, Config.outBase]; omega))

theorem State.packBuf_setOutBuf (s : State) (bs : List Byte) {j : Nat} (h : j < 35) :
    (s.setOutBuf bs).packBuf j = s.packBuf j :=
  Memory.read_store_outside (.inl (by simp only [Config.packBase, Config.outBase]; omega))

theorem State.cwBuf_setOutBuf (s : State) (bs : List Byte) {k : Nat} (h : k < 12) :
    (s.setOutBuf bs).cwBuf k = s.cwBuf k := by
  have out : ∀ x, x < 0x100 → (s.mem.store Config.outBase bs).read x = s.mem.read x := fun x hx =>
    Memory.read_store_outside (.inl (by simp only [Config.outBase]; omega))
  simp only [State.cwBuf, State.setOutBuf_mem, Memory.readWord, Config.cwBase]
  rw [out _ (by omega), out _ (by omega), out _ (by omega), out _ (by omega)]

/-! ## The operands, element by element -/

@[simp] theorem msgOperand_length (s : State) : (msgOperand s).length = 40 := Memory.readBytes_length ..

@[simp] theorem packBufOperand_length (s : State) : (packBufOperand s).length = 35 := Memory.readBytes_length ..

theorem msgOperand_getD (s : State) (i : Nat) (d : Byte) :
    (msgOperand s).getD i d = if i < 40 then s.msg i else d :=
  Memory.readBytes_getD ..

/-- `pb_byte` of the buffer in State: `PACK_BUF[j]` below 35, zero from there on (R531). -/
theorem pbByte_packBufOperand (s : State) (j : Nat) :
    pbByte (packBufOperand s) j = if j < 35 then s.packBuf j else 0 :=
  Memory.readBytes_getD ..

end Sys2Proof.Machine
end

