-- ==== Sys2Proof/Laws/Exec.lean ====
section
/-! SUPPORT. Everything each command, each access and each step can do, said once. -/

namespace Sys2Proof.Machine

@[simp] theorem stickyAfter_ok (b : Bool) : stickyAfter .ok b = b := rfl

@[simp] theorem stickyAfter_error {e : ErrCode} (h : e ≠ .ok) (b : Bool) : stickyAfter e b = true := by
  cases e <;> simp_all [stickyAfter]

/-- PACK is turned away with one of its two errors, or packs (R505, R506, R614). -/
theorem execPack_cases (s : State) :
    (s.msgPresent = false ∧ execPack s = .next (s.complete .nullInput .none)) ∨
    (s.msgPresent = true ∧ s.packCap.toNat < packedLen (msgLenOperand s) ∧
      execPack s = .next (s.complete .capacity .pack)) ∨
    (s.msgPresent = true ∧ packedLen (msgLenOperand s) ≤ s.packCap.toNat ∧
      execPack s = .next ((((s.setPackBuf (packedBuf (msgOperand s) (msgLenOperand s))).setPackLen
        (packedLen (msgLenOperand s))).setResult (BitVec.ofNat 32 (packedLen (msgLenOperand s)))).complete .ok
        .none)) := by
  unfold execPack
  by_cases h : s.msgPresent = false
  · exact .inl ⟨h, by rw [if_pos h]⟩
  · have h' : s.msgPresent = true := by simpa using h
    by_cases hp : packedLen (msgLenOperand s) > s.packCap.toNat
    · exact .inr (.inl ⟨h', hp, by rw [if_neg h]; exact if_pos hp⟩)
    · exact .inr (.inr ⟨h', by omega, by rw [if_neg h]; exact if_neg hp⟩)

/-- MSGCW is turned away for want of capacity, or builds the codewords (R537, R541). -/
theorem execMsgcw_cases (s : State) :
    (s.cwCap.toNat < msgCount (packLenOperand s) ∧ execMsgcw s = .next (s.complete .capacity .msgcw)) ∨
    (msgCount (packLenOperand s) ≤ s.cwCap.toNat ∧
      execMsgcw s = .next ((((s.setCwBuf (msgCodewords Config.paritySpan (packBufOperand s)
        (msgCount (packLenOperand s)))).setCwCount (msgCount (packLenOperand s))).setResult
        (BitVec.ofNat 32 (msgCount (packLenOperand s)))).complete .ok .none)) := by
  unfold execMsgcw
  by_cases h : msgCount (packLenOperand s) > s.cwCap.toNat
  · exact .inl ⟨h, by simp only [h, if_true]⟩
  · exact .inr ⟨by omega, by simp only [h, if_false]⟩

/-- The frame length ENCODE computes (R571). -/
def encodeLen (s : State) : Nat := frameLen (msgCount (packedLen (msgLenOperand s)))

/-- `T` ranges over 84..128 (R572). -/
theorem encodeLen_range (s : State) : 84 ≤ encodeLen s ∧ encodeLen s ≤ 128 := by
  have h1 := msgCount_pos (packedLen (msgLenOperand s))
  have h2 := msgCount_le (packedLen_le (msgLenOperand s))
  unfold encodeLen frameLen
  omega

/-- The frame ENCODE writes has the length it reports. -/
theorem encodeFrame_length (s : State) : (encodeFrame s).length = encodeLen s :=
  frame_length _ (by rw [msgCodewords_length]; exact msgCount_le (packedLen_le _))

/-- ENCODE is turned away at once, or after its intermediates, or writes the frame (R571, R574). -/
theorem execEncode_cases (s : State) :
    ((s.msgPresent = false ∨ s.outPresent = false) ∧ execEncode s = .next (s.complete .nullInput .none)) ∨
    (s.msgPresent = true ∧ s.outPresent = true ∧ s.outCap.toNat < encodeLen s ∧
      execEncode s = .next ((s.encodeIntermediates.setOutLen 0).complete .capacity .frame)) ∨
    (s.msgPresent = true ∧ s.outPresent = true ∧ encodeLen s ≤ s.outCap.toNat ∧
      execEncode s = .next ((((s.encodeIntermediates.setOutBuf (encodeFrame s)).setOutLen (encodeLen s)).setResult
        (BitVec.ofNat 32 (encodeLen s))).complete .ok .none)) := by
  unfold execEncode encodeLen
  by_cases h : s.msgPresent = false ∨ s.outPresent = false
  · exact .inl ⟨h, by rw [if_pos h]⟩
  · have h' : s.msgPresent = true ∧ s.outPresent = true := by simpa using h
    by_cases hp : frameLen (msgCount (packedLen (msgLenOperand s))) > s.outCap.toNat
    · exact .inr (.inl ⟨h'.1, h'.2, hp, by rw [if_neg h]; exact if_pos hp⟩)
    · exact .inr (.inr ⟨h'.1, h'.2, by omega, by rw [if_neg h]; exact if_neg hp⟩)

/-- What ENCODE writes before its length check leaves `OUT_BUF` as it was (R573). -/
theorem State.outBuf_encodeIntermediates (s : State) (j : Nat) : s.encodeIntermediates.outBuf j = s.outBuf j :=
  (State.outBuf_setCwBuf ((s.setPackBuf (packedBuf (msgOperand s) (msgLenOperand s))).setPackLen
    (packedLen (msgLenOperand s))) j (msgCodewords_length ..).le).trans
    (State.outBuf_setPackBuf s j (packedBuf_length ..).le)

/-- The register at an offset is the one with that offset. -/
theorem regAt_eq_some {off : Nat} {r : WordReg} : regAt off = some r ↔ off = r.offset := by
  constructor
  · intro h
    unfold regAt at h
    split at h <;> simp_all [WordReg.offset] <;> (subst h; rfl)
  · rintro rfl
    cases r <;> rfl

/-- A write to `CMD` runs one command or reports an illegal word (R301, R610). -/
theorem writeCmd_cases (hasFrame : Bool) (v : Word) (s : State) :
    (∃ i, decodeWith hasFrame v = .ok i ∧ writeCmd hasFrame v s = exec i s) ∨
    (∃ r, decodeWith hasFrame v = .error r ∧ writeCmd hasFrame v s = .next s.illegalCommand) := by
  unfold writeCmd
  cases h : decodeWith hasFrame v with
  | ok i => exact .inl ⟨i, rfl, rfl⟩
  | error r => exact .inr ⟨r, rfl, rfl⟩

/-- The five things a legal access or a reset can do, and the one an illegal access does. -/
theorem serve_cases (e : BusEvent) (s : State) :
    (∃ off size, e = .read off size ∧ legalAccess off size = true ∧ ∃ v, serve e s = .next (s.respond v)) ∨
    (∃ v, e = .write 0x004 4 v ∧ serve e s = writeCmd Config.hasFrame v s) ∨
    (∃ r v, r ≠ WordReg.cmd ∧ e = .write r.offset 4 v ∧ serve e s = .next (writeReg r v s)) ∨
    (∃ off size v, e = .write off size v ∧ legalAccess off size = true ∧ regAt off = none ∧
      (serve e s = .next s ∨
        (inMsg off = true ∧ ∃ bs : List Byte, bs.length = size ∧ serve e s = .next (s.store off bs)))) ∨
    (e = .reset ∧ serve e s = .next s.resetBlock) ∨
    (∃ off size w, (e = .read off size ∨ ∃ v, e = .write off size v) ∧ legalAccess off size = false ∧
      serve e s = .fault (.busError off size w)) := by
  cases e with
  | reset => exact .inr (.inr (.inr (.inr (.inl ⟨rfl, rfl⟩))))
  | read off size =>
    cases h : legalAccess off size with
    | true => exact .inl ⟨off, size, rfl, h, _, by simp only [serve, serveRead, h, if_true]; rfl⟩
    | false =>
      exact .inr (.inr (.inr (.inr (.inr ⟨off, size, false, .inl rfl, h, by simp [serve, serveRead, h]⟩))))
  | write off size v =>
    cases h : legalAccess off size with
    | false =>
      exact .inr (.inr (.inr (.inr (.inr ⟨off, size, true, .inr ⟨v, rfl⟩, h, by simp [serve, serveWrite, h]⟩))))
    | true =>
      by_cases h4 : size = 4
      · subst h4
        have hw : serve (.write off 4 v) s = writeWord off v s := by simp [serve, serveWrite, h]
        cases hr : regAt off with
        | some r =>
          have ho := regAt_eq_some.1 hr
          subst ho
          by_cases hc : r = .cmd
          · subst hc
            exact .inr (.inl ⟨v, rfl, hw⟩)
          · refine .inr (.inr (.inl ⟨r, v, hc, rfl, ?_⟩))
            rw [hw]
            cases r <;> first | rfl | exact absurd rfl hc
        | none =>
          refine .inr (.inr (.inr (.inl ⟨off, 4, v, rfl, h, hr, ?_⟩)))
          rw [hw, writeWord, hr]
          cases hm : inMsg off with
          | true => exact .inr ⟨rfl, bytesLE v, rfl, by simp [writeWindowWord, hm]⟩
          | false => exact .inl (by simp [writeWindowWord, hm])
      · have hl : size = 1 ∧ inByteWindow off = true := by simpa [legalAccess, h4] using h
        have hr : regAt off = none := by
          cases hr : regAt off with
          | none => rfl
          | some r =>
            have ho := regAt_eq_some.1 hr
            subst ho
            cases r <;> simp [inByteWindow, inMsg, inOutBuf, WordReg.offset] at hl
        refine .inr (.inr (.inr (.inl ⟨off, size, v, rfl, h, hr, ?_⟩)))
        cases hm : inMsg off with
        | true =>
          exact .inr ⟨rfl, [v.setWidth 8], hl.1.symm, by simp [serve, serveWrite, h, h4, writeWindowByte, hm]⟩
        | false => exact .inl (by simp [serve, serveWrite, h, h4, writeWindowByte, hm])

/-- A step idles on an empty bus or serves the next event. -/
theorem step_cases (s : State) :
    (s.pending = [] ∧ step s = .next s) ∨
    (∃ e rest, s.pending = e :: rest ∧ step s = serve e (s.accept rest)) := by
  unfold step busStep
  cases h : s.pending with
  | nil => exact .inl ⟨rfl, rfl⟩
  | cons e rest => exact .inr ⟨e, rest, rfl, rfl⟩

end Sys2Proof.Machine
end

