-- ==== Sys2Proof/Laws/Gf2.lean ====
section
/-! SUPPORT. The laws of the division by the generator: it is linear, its remainder has ten bits, and the loop of R441
computes it one bit up (42_bch_parity). -/

namespace Sys2Proof.Machine

/-- The remainder is linear. -/
theorem gf2Rem_xor (n : Nat) (v w : BitVec 31) : gf2Rem n (v ^^^ w) = gf2Rem n v ^^^ gf2Rem n w := by
  induction n generalizing v w with
  | zero => rfl
  | succ n ih =>
    have cancel : v ^^^ w = (v ^^^ Config.bchGen.setWidth 31 <<< n) ^^^ (w ^^^ Config.bchGen.setWidth 31 <<< n) := by
      rw [BitVec.xor_comm w, BitVec.xor_assoc, ← BitVec.xor_assoc _ _ w, BitVec.xor_self, BitVec.zero_xor]
    simp only [gf2Rem, BitVec.getLsbD_xor]
    cases v.getLsbD (n + 10) <;> cases w.getLsbD (n + 10) <;> simp only [← ih, Bool.xor_true, Bool.xor_false,
      Bool.not_true, Bool.not_false, if_true, Bool.false_eq_true, if_false]
    · rw [BitVec.xor_assoc]
    · rw [BitVec.xor_assoc, BitVec.xor_assoc, BitVec.xor_comm w]
    · exact congrArg _ cancel

/-- The turn at bit `n + 10` clears it, and no turn touches a bit above its own. -/
theorem gf2Rem_high (n : Nat) (h : n ≤ 21) (v : BitVec 31) (hv : ∀ i, n + 10 ≤ i → v.getLsbD i = false) (i : Nat)
    (hi : 10 ≤ i) : (gf2Rem n v).getLsbD i = false := by
  induction n generalizing v with
  | zero => exact hv i (by omega)
  | succ n ih =>
    rw [gf2Rem]
    refine ih (by omega) _ fun j hj => ?_
    have gen : ∀ k : Nat, (Config.bchGen.setWidth 31 : BitVec 31).getLsbD k = (Config.bchGen).getLsbD k := by
      intro k
      by_cases hk : k < 31 <;> simp [BitVec.getLsbD_setWidth, hk]
      rw [BitVec.getLsbD_of_ge _ _ (by omega)]
    by_cases hb : v.getLsbD (n + 10) = true
    · rw [if_pos hb, BitVec.getLsbD_xor, BitVec.getLsbD_shiftLeft, gen]
      by_cases e : j = n + 10
      · subst e
        rw [hb]
        have : n + 10 - n = 10 := by omega
        rw [this]
        have h1 : n + 10 < 31 := by omega
        have h2 : ¬ n + 10 < n := by omega
        simp [h1, h2]; decide
      · rw [hv j (by omega), BitVec.getLsbD_of_ge _ (j - n) (by omega)]
        simp
    · rw [if_neg hb]
      by_cases e : j = n + 10
      · subst e; simpa using hb
      · exact hv j (by omega)

/-- A value without bits from 10 on is its own remainder. -/
theorem gf2Rem_low (n : Nat) (v : BitVec 31) (hv : ∀ i, 10 ≤ i → v.getLsbD i = false) : gf2Rem n v = v := by
  induction n with
  | zero => rfl
  | succ n ih => rw [gf2Rem, hv _ (by omega)]; simpa using ih

/-- The division loop of R441 on a word whose bit 0 is clear. -/
theorem bchDivide_eq (n : Nat) (h : n ≤ 21) (v : BitVec 31) :
    bchDivide n (v ++ 0#1 : BitVec 32) (Config.bchGen.setWidth 32 <<< n) (1#32 <<< (n + 10)) =
      (gf2Rem n v ++ 0#1 : BitVec 32) := by
  induction n generalizing v with
  | zero => rfl
  | succ n ih =>
    rw [bchDivide, gf2Rem]
    have hg : ∀ k, k < 21 → (Config.bchGen.setWidth 32 <<< (k + 1)) >>> 1 = (Config.bchGen.setWidth 32 <<< k : BitVec 32) := by
      decide
    have hm : ∀ k, k < 21 → (1#32 <<< (k + 1 + 10)) >>> 1 = (1#32 <<< (k + 10) : BitVec 32) := by decide
    have test : ((v ++ 0#1 : BitVec 32) &&& 1#32 <<< (n + 1 + 10) ≠ 0) ↔ v.getLsbD (n + 10) = true := by
      rw [← BitVec.twoPow_eq, BitVec.and_twoPow, BitVec.getLsbD_append]
      have e1 : ¬ n + 1 + 10 < 1 := by omega
      have e2 : n + 1 + 10 - 1 = n + 10 := by omega
      rw [if_neg e1, e2]
      cases v.getLsbD (n + 10)
      · simp
      · simp only [if_true, ne_eq, iff_true]
        intro h0
        have := congrArg (fun x => BitVec.getLsbD x (n + 1 + 10)) h0
        simp at this
        omega
    have sub : (v ++ 0#1 : BitVec 32) ^^^ (Config.bchGen.setWidth 32 <<< (n + 1)) =
        ((v ^^^ Config.bchGen.setWidth 31 <<< n) ++ 0#1 : BitVec 32) := by
      have e : ∀ k, k < 21 → (Config.bchGen.setWidth 32 <<< (k + 1) : BitVec 32) =
          ((Config.bchGen.setWidth 31 <<< k : BitVec 31) ++ 0#1 : BitVec 32) := by decide
      rw [e n (by omega)]
      ext i hi
      simp only [← BitVec.getLsbD_eq_getElem, BitVec.getLsbD_xor, BitVec.getLsbD_append]
      split <;> simp
    rw [hg n (by omega), hm n (by omega)]
    by_cases hb : v.getLsbD (n + 10) = true
    · rw [if_pos (test.2 hb), if_pos hb, sub, ih (by omega)]
    · rw [if_neg (fun c => hb (test.1 c)), if_neg hb, ih (by omega)]

/-- The 31-bit frame of a word's data field, check bits zero. -/
def dataFrame (w : Word) : BitVec 31 := w.extractLsb' 11 21 ++ 0#10

theorem mask_eq_dataFrame (w : Word) : w &&& 0xFFFFF800 = (dataFrame w ++ 0#1 : BitVec 32) := by
  have mask : ∀ i, i < 32 → (0xFFFFF800 : Word).getLsbD i = decide (11 ≤ i) := by decide
  ext i hi
  rw [← BitVec.getLsbD_eq_getElem, ← BitVec.getLsbD_eq_getElem, BitVec.getLsbD_and, mask i hi]
  simp only [dataFrame, BitVec.getLsbD_append, BitVec.getLsbD_extractLsb']
  by_cases h : 11 ≤ i
  · have h1 : ¬ i < 1 := by omega
    have h2 : ¬ i - 1 < 10 := by omega
    have h3 : i - 1 - 10 < 21 := by omega
    have h4 : 11 + (i - 1 - 10) = i := by omega
    simp [h, h1, h2, h3, h4]
  · by_cases h0 : i < 1
    · have : ¬ 11 ≤ i := h
      simp [h0, this]
    · have h2 : i - 1 < 10 := by omega
      simp [h, h0, h2]

/-- The check bits `bch` computes: the remainder of the data field's frame. -/
def checkBits (w : Word) : BitVec 10 := (gf2Rem 21 (dataFrame w)).setWidth 10

theorem dataFrame_remainder (w : Word) : gf2Rem 21 (dataFrame w) = (checkBits w).setWidth 31 := by
  have high := gf2Rem_high 21 le_rfl (dataFrame w) (fun i hi => BitVec.getLsbD_of_ge _ _ (by omega))
  ext i hi
  simp only [← BitVec.getLsbD_eq_getElem, checkBits, BitVec.getLsbD_setWidth]
  by_cases h : i < 10
  · simp [h, hi]
  · simp [h, high i (by omega)]

/-- What `bch` does, in one equation: its check bits at bits 10..1, nothing else (R441). -/
theorem bch_eq (w : Word) : bch w = w ||| ((checkBits w).setWidth 32 <<< 1) := by
  have start : (Config.bchGen.setWidth 32 <<< 21 : Word) = Config.bchGen.setWidth 32 <<< 21 ∧
      (0x80000000 : Word) = 1#32 <<< (21 + 10) := ⟨rfl, by decide⟩
  rw [bch, mask_eq_dataFrame, start.2, bchDivide_eq 21 le_rfl, dataFrame_remainder]
  congr 1
  have mask : ∀ i, i < 32 → (0x000007FE : Word).getLsbD i = decide (1 ≤ i ∧ i < 11) := by decide
  ext i hi
  rw [← BitVec.getLsbD_eq_getElem, ← BitVec.getLsbD_eq_getElem, BitVec.getLsbD_and, mask i hi]
  simp only [BitVec.getLsbD_append, BitVec.getLsbD_shiftLeft, BitVec.getLsbD_setWidth]
  by_cases h0 : i < 1
  · have : ¬ 1 ≤ i := by omega
    simp [h0, this]
  · by_cases h : i < 11
    · have h1 : 1 ≤ i := by omega
      have h2 : i - 1 < 31 := by omega
      have h3 : i - 1 < 32 := by omega
      simp [h, h0, h1, h2, h3, hi]
    · have : (checkBits w).getLsbD (i - 1) = false := BitVec.getLsbD_of_ge _ _ (by omega)
      simp [h, this]

end Sys2Proof.Machine
end

