-- ==== Sys2Proof/Laws/PerInstr.lean ====
section
/-! SUPPORT. The statements made per command: the four fields of every command word (30_encoding R300). -/

namespace Sys2Proof.Laws.CommandFields

/-- The word of a well-formed command carries its `OP` and its slice index, and both reserved fields are zero. -/
def Statement (i : Instr) : Prop :=
  i.wf = true → opField (encode i) = i.opcode ∧ rsv0Field (encode i) = 0 ∧ rsv1Field (encode i) = 0 ∧
    (idxField (encode i)).toNat = i.idx

theorem nop : Statement .nop := fun _ => by decide

theorem rev8 : Statement .rev8 := fun _ => by decide

theorem bch : Statement .bch := fun _ => by decide

theorem par : Statement .par := fun _ => by decide

theorem sealCmd : Statement .sealCmd := fun _ => by decide

theorem addrcw : Statement .addrcw := fun _ => by decide

theorem pack : Statement .pack := fun _ => by decide

theorem msgcw1 (idx : Nat) : Statement (.msgcw1 idx) := by
  intro h
  have hi : idx < 256 := by simpa [Instr.wf, Instr.wfWith] using h
  have hb : ∀ b : BitVec 8, opField (0#16 ++ b ++ 0#4 ++ 7#4) = 7 ∧ rsv0Field (0#16 ++ b ++ 0#4 ++ 7#4) = 0 ∧
      rsv1Field (0#16 ++ b ++ 0#4 ++ 7#4) = 0 ∧ idxField (0#16 ++ b ++ 0#4 ++ 7#4) = b := by decide +kernel
  obtain ⟨h1, h2, h3, h4⟩ := hb (BitVec.ofNat 8 idx)
  refine ⟨h1, h2, h3, ?_⟩
  show (idxField (0#16 ++ BitVec.ofNat 8 idx ++ 0#4 ++ 7#4)).toNat = idx
  rw [h4, BitVec.toNat_ofNat]
  omega

theorem msgcw : Statement .msgcw := fun _ => by decide

theorem encode : Statement .encode := fun _ => by decide

end Sys2Proof.Laws.CommandFields
end

