-- ==== Sys2Proof/Tests/Slice0.lean ====
section
/-! SUPPORT. Tests. Expected values are the spec's: the worked examples of the command rules and the vectors of
95_test_vectors (the section or vector is named). Then, for every statement with hypotheses, a concrete case that meets
them all (`witness_…`). -/

open Sys2Proof Sys2Proof.Machine

namespace Sys2Proof.Tests

/-- A field of the next state, none when the machine stops. -/
def after {α : Type} (o : Host.Outcome State Fault Refusal) (f : State → α) : Option α :=
  match o with
  | .next t => some (f t)
  | .fault _ | .refused _ => Option.none

/-- The reset state with `OPA` set. -/
def withOpa (v : Word) : State := { State.reset with opa := v }

/-- "TEST" in `MSG`, its length, a message and an output buffer present. -/
def testMessage : State :=
  { State.reset with
    msgPresent := true, outPresent := true, msgLen := 4
    mem := [(0x040, 0x54), (0x041, 0x45), (0x042, 0x53), (0x043, 0x54)] }

/-- "TEST" packed (vector K7). -/
def testPacked : State :=
  { State.reset with packLen := 4, mem := [(0x080, 0x2B), (0x081, 0x47), (0x082, 0x29), (0x083, 0x50)] }

/-- `s` with one access next on the bus. -/
def onBus (s : State) (e : BusEvent) : State := { s with pending := [e] }

/-! ## WellFormed: one ill-formed term for each check -/

theorem test_wf_refuses_wide_index : Instr.wf (.msgcw1 256) = false := by decide
theorem test_wf_admits_top_index : Instr.wf (.msgcw1 255) = true := by decide
theorem test_wf_refuses_encode_without_frame : Instr.wfWith false .encode = false := by decide

/-! ## Decode: every constructor's word, written out from R300 and R302 -/

theorem test_decode_nop : decode 0b0000000000000000_00000000_0000_0000 = .ok .nop := by rfl
theorem test_decode_rev8 : decode 0b0000000000000000_00000000_0000_0001 = .ok .rev8 := by rfl
theorem test_decode_bch : decode 0b0000000000000000_00000000_0000_0010 = .ok .bch := by rfl
theorem test_decode_par : decode 0b0000000000000000_00000000_0000_0011 = .ok .par := by rfl
theorem test_decode_seal : decode 0b0000000000000000_00000000_0000_0100 = .ok .sealCmd := by rfl
theorem test_decode_addrcw : decode 0b0000000000000000_00000000_0000_0101 = .ok .addrcw := by rfl
theorem test_decode_pack : decode 0b0000000000000000_00000000_0000_0110 = .ok .pack := by rfl
theorem test_decode_msgcw1_14 : decode 0b0000000000000000_00001110_0000_0111 = .ok (.msgcw1 14) := by rfl
theorem test_decode_msgcw1_128 : decode 0b0000000000000000_10000000_0000_0111 = .ok (.msgcw1 128) := by rfl
theorem test_decode_msgcw : decode 0b0000000000000000_00000000_0000_1000 = .ok .msgcw := by rfl
theorem test_decode_encode : decode 0b0000000000000000_00000000_0000_1001 = .ok .encode := by rfl
theorem test_decode_op_A : decode 0b0000000000000000_00000000_0000_1010 = .error .reservedOp := by rfl
theorem test_decode_op_F : decode 0b0000000000000000_00000000_0000_1111 = .error .reservedOp := by rfl
theorem test_decode_rsv0 : decode 0b0000000000000000_00000000_0001_0000 = .error .reservedBits := by rfl
theorem test_decode_rsv1 : decode 0b0000000000000001_00000000_0000_0010 = .error .reservedBits := by rfl
theorem test_decode_idx_pack : decode 0b0000000000000000_00000001_0000_0110 = .error .idxNotZero := by rfl
theorem test_decode_no_frame : decodeWith false 0x00000009 = .error .reservedOp := by rfl
theorem test_table_word : decodeTableWord 32 0x0000FF07 = some (.msgcw1 255) := by rfl

/-! ## Sizes (R8) -/

theorem test_derived_sizes :
    (7 * Config.maxMsgLen + 7) / 8 = Config.packBufSize ∧ Config.packBufSize / 3 + 1 = Config.maxCw ∧
      Config.preambleLen + 4 + 4 + 4 * Config.maxCw = Config.outBufSize := by decide

/-! ## Commands -/

/-- R400's example. -/
theorem test_nop_keeps_sticky :
    after (exec .nop { State.reset with err := .capacity, stage := .msgcw, sticky := true }) statusWord =
      some 0x00000100 := by rfl

/-- R421's example. -/
theorem test_rev8_ignores_high_bits : after (exec .rev8 (withOpa 0x12345654)) (·.result) = some 0x0000002A := by rfl
/-- Vectors 2.1. -/
theorem test_rev8_12 : after (exec .rev8 (withOpa 0x00000012)) (·.result) = some 0x00000048 := by rfl

/-- R442's example. -/
theorem test_bch_sync : after (exec .bch (withOpa 0x7CD21000)) (·.result) = some 0x7CD215D8 := by decide +kernel
/-- Vectors 2.2: low bits kept. -/
theorem test_bch_low_bits : after (exec .bch (withOpa 0x12345678)) (·.result) = some 0x123457FE := by decide +kernel

/-- R451's example. -/
theorem test_par_bit30 : after (exec .par (withOpa 0x40000000)) (·.result) = some 0x40000001 := by decide +kernel
/-- R451's corner case: bit 31 is outside the span. -/
theorem test_par_bit31 : after (exec .par (withOpa 0x80000000)) (·.result) = some 0x80000000 := by decide +kernel

/-- R456's example. -/
theorem test_seal_idle : after (exec .sealCmd (withOpa 0x7A89C000)) (·.result) = some 0x7A89C197 := by decide +kernel
/-- Vectors 2.4. -/
theorem test_seal_flag : after (exec .sealCmd (withOpa 0x80000000)) (·.result) = some 0x80000768 := by decide +kernel

/-- R482's example. -/
theorem test_addrcw_1234567 :
    after (exec .addrcw (withOpa 0x0012D687)) (fun t => (t.addrCw, t.result)) = some (0x4B5A1A25, 0x4B5A1A25) := by decide +kernel
/-- R483: bit 21 reaches bit 31. -/
theorem test_addrcw_bit21 : after (exec .addrcw (withOpa 0x00200000)) (·.addrCw) = some 0x80001ACD := by decide +kernel

/-- R506's example. -/
theorem test_pack_test :
    after (exec .pack testMessage) (fun t => (t.packLen, t.result, (List.range 5).map t.packBuf)) =
      some (4, 4, [0x2B, 0x47, 0x29, 0x50, 0x00]) := by decide +kernel
/-- Vector K10. -/
theorem test_pack_capacity :
    after (exec .pack { testMessage with packCap := 3 }) (fun t => (statusWord t, t.mem, t.packLen)) =
      some (0x00000111, testMessage.mem, 0) := by decide +kernel

/-- R540's example. -/
theorem test_msgcw1_1 : after (exec (.msgcw1 1) testPacked) (·.result) = some 0xCA8003E2 := by decide +kernel
/-- Vectors 2.7. -/
theorem test_msgcw1_255 : after (exec (.msgcw1 255) testPacked) (·.result) = some 0x80000768 := by decide +kernel

/-- R541's example. -/
theorem test_msgcw_test :
    after (exec .msgcw testPacked) (fun t => (t.cwCount, t.result, t.cwBuf 0, t.cwBuf 1, t.cwBuf 2)) =
      some (2, 2, 0x95A393FD, 0xCA8003E2, 0) := by decide +kernel
/-- Vectors 2.7: the count exceeds the capacity by one. -/
theorem test_msgcw_capacity :
    after (exec .msgcw { testPacked with cwCap := 1 }) (fun t => (statusWord t, t.cwCount)) =
      some (0x00000121, 0) := by decide +kernel

/-- Vector E1. -/
theorem test_encode_test :
    after (exec .encode { testMessage with opa := 0x0012D687 })
        (fun t => (t.outLen, t.outBuf 71, t.outWord 72, t.outWord 76, t.outWord 80, t.outWord 84, t.outBuf 88)) =
      some (88, 0xAA, 0x7CD215D8, 0x4B5A1A25, 0x95A393FD, 0xCA8003E2, 0x00) := by decide +kernel
/-- Vector E3. -/
theorem test_encode_capacity :
    after (exec .encode { testMessage with msgLen := 0, outCap := 83 })
        (fun t => (statusWord t, t.outLen, t.cwCount, t.cwBuf 0, t.addrCw, t.result)) =
      some (0x00000131, 0, 1, 0x80000768, 0x00001DA5, 0) := by decide +kernel

/-! ## Host accesses (vectors 2.9 and 2.10) and reset -/

theorem test_illegal_word :
    after (step (onBus State.reset (.write 0x004 4 0x0000000A))) statusWord = some 0x00000103 := by rfl
theorem test_sticky_w1c :
    after (step (onBus { State.reset with err := .illegalCmd, sticky := true } (.write 0x008 4 0x100))) statusWord =
      some 0x00000003 := by rfl
theorem test_status_other_bits :
    after (step (onBus { State.reset with err := .illegalCmd, sticky := true } (.write 0x008 4 0x0FF))) statusWord =
      some 0x00000103 := by rfl
theorem test_msg_len_byte :
    after (step (onBus State.reset (.write 0x014 4 0x00000132))) (·.msgLen) = some 0x32 := by rfl
theorem test_read_packed_word :
    after (step (onBus testPacked (.read 0x080 4))) (·.readData) = some (some 0x5029472B) := by decide +kernel
theorem test_read_sync : after (step (onBus State.reset (.read 0x034 4))) (·.readData) = some (some 0x7CD215D8) := by rfl
theorem test_byte_read_of_register :
    step (onBus State.reset (.read 0x00C 1)) = .fault (.busError 0x00C 1 false) := by rfl
theorem test_misaligned_read : step (onBus State.reset (.read 0x081 4)) = .fault (.busError 0x081 4 false) := by rfl
theorem test_byte_read_of_cw_buf : step (onBus State.reset (.read 0x0C0 1)) = .fault (.busError 0x0C0 1 false) := by rfl
theorem test_read_outside_window :
    step (onBus State.reset (.read 0x200 4)) = .fault (.busError 0x200 4 false) := by rfl
theorem test_reset_restores_capacity :
    after (step (onBus { State.reset with packCap := 1, opa := 5 } .reset)) (fun t => (t.packCap, t.opa)) =
      some (35, 0) := by rfl
theorem test_fetch_word_runs :
    after (step ((withOpa 0x54).withFetchWord 32 0x00000001)) (·.result) = some 0x2A := by rfl

/-! ## Witnesses: every statement's hypotheses are met -/

/-- The last index of each buffer. -/
theorem witness_ResetStateHasTheTabledValues : 39 < 40 ∧ 34 < 35 ∧ 11 < 12 ∧ 127 < 128 := by decide

theorem witness_PlatformResetGivesTheResetState :
    ∃ (s : State) (rest : List BusEvent), s.pending = BusEvent.reset :: rest := ⟨onBus (withOpa 1) .reset, [], rfl⟩

theorem witness_StepRunsTheDecodedCommand :
    (∃ (s : State) (v : Word) (i : Instr) (rest : List BusEvent), s.pending = BusEvent.write 0x004 4 v :: rest ∧ decode v = .ok i) ∧
      Instr.wf (.msgcw1 255) = true :=
  ⟨⟨onBus (withOpa 1) (.write 0x004 4 2), 2, .bch, [], rfl, rfl⟩, by decide⟩

/-- One word for each of the four ways of R610 (the reserved fields two ways), at the least bit or value. -/
theorem witness_IllegalWordWritesStatusOnly :
    rsv0Field 0x00000010 ≠ 0 ∧ rsv1Field 0x00010000 ≠ 0 ∧ 0xA ≤ (opField 0x0000000A).toNat ∧
      (opField 0x00000009).toNat = 9 ∧ (idxField 0x00000100 ≠ 0 ∧ (opField 0x00000100).toNat ≠ 7) := by decide

/-- Both sides of each bound of R203, for reads and writes. -/
theorem witness_BusErrorExactlyOnIllegalAccess :
    (∃ (s : State) (rest : List BusEvent), s.pending = BusEvent.read 0x1FC 4 :: rest) ∧
      (∃ (s : State) (rest : List BusEvent) (v : Word), s.pending = BusEvent.write 0x067 1 v :: rest) ∧
    legalAccess 0x1FC 4 = true ∧ legalAccess 0x000 4 = true ∧ legalAccess 0x040 1 = true ∧ legalAccess 0x067 1 = true ∧
    legalAccess 0x080 1 = true ∧ legalAccess 0x0A3 1 = true ∧ legalAccess 0x100 1 = true ∧ legalAccess 0x17F 1 = true ∧
    legalAccess 0x200 4 = false ∧ legalAccess 0x001 4 = false ∧ legalAccess 0x03F 1 = false ∧
    legalAccess 0x068 1 = false ∧ legalAccess 0x07F 1 = false ∧ legalAccess 0x0A4 1 = false ∧
    legalAccess 0x0FF 1 = false ∧ legalAccess 0x180 1 = false ∧ legalAccess 0x040 2 = false ∧
    legalAccess 0x040 8 = false ∧ legalAccess 0x040 0 = false :=
  ⟨⟨onBus State.reset (.read 0x1FC 4), [], rfl⟩, ⟨onBus State.reset (.write 0x067 1 7), [], 7, rfl⟩, by decide⟩

theorem witness_ReadsHaveNoSideEffect :
    ∃ (s : State) (off n : Nat) (rest : List BusEvent) (t : State), s.pending = BusEvent.read off n :: rest ∧ step s = .next t :=
  ⟨onBus testPacked (.read 0x080 1), _, _, [], _, rfl, rfl⟩

theorem witness_EachStepTakesTheNextEvent :
    (∃ t, step { testMessage with pending := [.reset, .read 0 4] } = .next t) ∧ testMessage.pending = [] :=
  ⟨⟨_, rfl⟩, rfl⟩

theorem witness_LegalBusNeverFaults : State.busLegal (onBus testMessage (.read 0x0A3 1)) := by
  intro e he
  cases he with
  | head => rfl
  | tail _ h => cases h

theorem witness_OffsetIsTheLowNineAddressBits :
    Config.blockBase.extractLsb' 9 23 = Config.blockWindow := by
  ext i hi
  have h : ¬ 9 + i < 9 := by omega
  rw [BitVec.getElem_extractLsb', Config.blockBase, BitVec.getLsbD_append, if_neg h, Nat.add_sub_cancel_left,
    BitVec.getLsbD_eq_getElem hi]

/-- The first and the last index of every range, and a read at the last index of each kind. -/
theorem witness_BufferReadsAreLittleEndian :
    (0 < 40 ∧ 39 < 40) ∧ (0 < 35 ∧ 34 < 35) ∧ (0 < 128 ∧ 127 < 128) ∧ (0 < 10 ∧ 9 < 10) ∧ (0 < 8 ∧ 7 < 8) ∧
    (0 < 12 ∧ 11 < 12) ∧ (0 < 32 ∧ 31 < 32) ∧
    after (step (onBus { State.reset with mem := [(0x067, 0x5A)] } (.read 0x067 1))) (·.readData) = some (some 0x5A) ∧
    after (step (onBus { State.reset with mem := [(0x0A2, 0x5A)] } (.read 0x0A0 4))) (·.readData) =
      some (some 0x005A0000) ∧
    after (step (onBus { State.reset with mem := [(0x0EC, 0x0F)] } (.read 0x0EC 4))) (·.readData) = some (some 0x0F) ∧
    after (step (onBus { State.reset with mem := [(0x17F, 0x44)] } (.read 0x17C 4))) (·.readData) =
      some (some 0x44000000) := by decide +kernel

/-- The first and the last index of both ranges, and a write at each last index. -/
theorem witness_MessageWritesStoreTheirBytes :
    (0 < 40 ∧ 39 < 40) ∧ (0 < 10 ∧ 9 < 10) ∧
    after (step (onBus State.reset (.write 0x067 1 0xFFFFFF5A))) (·.mem) = some [(0x067, 0x5A)] ∧
    after (step (onBus State.reset (.write 0x064 4 0x44332211))) (·.mem) =
      some [(0x064, 0x11), (0x065, 0x22), (0x066, 0x33), (0x067, 0x44)] := by decide +kernel

/-- The first and last word of every reserved range, a read of the word that holds byte 0x0A3, a read of a register with
reserved bits, and two values that differ only in reserved bits. -/
theorem witness_ReservedOffsetsAndBitsReadZeroIgnoreWrites :
    (∀ off ∈ [0x03C, 0x068, 0x07C, 0x0A4, 0x0BC, 0x0F0, 0x0FC, 0x180, 0x1FC],
      off % 4 = 0 ∧ (off = 0x03C ∨ (0x068 ≤ off ∧ off < 0x080) ∨ (0x0A4 ≤ off ∧ off < 0x0C0) ∨
        (0x0F0 ≤ off ∧ off < 0x100) ∨ (0x180 ≤ off ∧ off < 0x200))) ∧
    reads 4 0x0A0 State.reset 0 ∧ reads 4 (WordReg.offset .packCap) State.reset 35 ∧
    ((0xFFFFFF05 : Word) &&& fieldMask .msgLen = 0x00000005 &&& fieldMask .msgLen ∧
      writes 4 (WordReg.offset .msgLen) 0xFFFFFF05 State.reset { State.reset with msgLen := 5 }) :=
  ⟨by decide, fun _ => by simp [step, busStep, serve, serveRead, legalAccess, Config.windowSize, readWord, regAt,
    readWindowByte, unlistedByte, wordLE, State.accept, State.respond], fun _ => rfl, by decide, fun _ => rfl⟩

theorem witness_StatusWriteOnlyClearsSticky :
    ∃ s t, step s = .next t ∧ (t.err ≠ s.err ∨ t.stage ≠ s.stage) :=
  ⟨onBus State.reset (.write 0x004 4 0xA), _, rfl, .inl (by decide)⟩

/-- Every read-only register's offset, and the bounds of the three read-only windows. -/
theorem witness_ReadOnlyStateIgnoresWrites :
    (∀ off ∈ [0x010, 0x024, 0x028, 0x02C, 0x030, 0x034, 0x038], off % 4 = 0) ∧
    (∀ off ∈ [0x080, 0x0A0, 0x0C0, 0x0EC, 0x100, 0x17C], off % 4 = 0 ∧
      ((0x080 ≤ off ∧ off < 0x0A4) ∨ (0x0C0 ≤ off ∧ off < 0x0F0) ∨ (0x100 ≤ off ∧ off < 0x180))) ∧
    ∀ off ∈ [0x080, 0x0A3, 0x100, 0x17F], (0x080 ≤ off ∧ off < 0x0A4) ∨ (0x100 ≤ off ∧ off < 0x180) := by decide

theorem witness_OtherAccessesLeaveResultsStale :
    ∃ s e rest t, s.pending = e :: rest ∧ e ≠ .reset ∧ (∀ v, e ≠ .write 0x004 4 v) ∧ step s = .next t :=
  ⟨onBus testPacked (.write 0x040 1 0x41), _, [], _, rfl, by decide, fun _ h => by simp at h, rfl⟩

theorem witness_DecoderAcceptsExactlyTheLegalWords :
    (∃ i, decodeWith true 0x0000FF07 = .ok i) ∧ (∃ i, decodeWith true 0x00000009 = .ok i) ∧
      ∀ i, decodeWith false 0x00000009 ≠ .ok i :=
  ⟨⟨_, rfl⟩, ⟨_, rfl⟩, fun i h => by rw [test_decode_no_frame] at h; cases h⟩

theorem witness_DecodeAndEncodeAgree :
    Instr.wfWith false (.msgcw1 255) = true ∧ Instr.wfWith true .encode = true ∧
      decodeWith false 0x0000FF07 = .ok (.msgcw1 255) := ⟨by decide, by decide, rfl⟩

theorem witness_WithoutFrameEncodeDoesNotExist :
    ∃ t, writeCmd false 0x00000002 (withOpa 5) = .next t := ⟨_, rfl⟩

/-- The null, the capacity and the success case, the last two on the two sides of the bound. -/
theorem witness_PackCommandPacksTheMessage :
    State.reset.msgPresent = false ∧
    (testMessage.msgPresent = true ∧
      (3#8).toNat < (7 * min testMessage.msgLen.toNat 40 + 7) / 8 ∧
      (7 * min testMessage.msgLen.toNat 40 + 7) / 8 ≤ (4#8).toNat) := by decide

/-- The last index a command word can carry. -/
theorem witness_Msgcw1ComputesOneSlice : 255 < 256 ∧ decode (0x00000007 ||| (BitVec.ofNat 32 255 <<< 8)) = .ok (.msgcw1 255) :=
  ⟨by decide, rfl⟩

theorem witness_MsgcwBuildsAllCodewords :
    (0#8).toNat < State.reset.packLen.toNat / 3 + 1 ∧ State.reset.packLen.toNat / 3 + 1 ≤ (1#8).toNat ∧
      testPacked.packLen.toNat / 3 + 1 ≤ testPacked.cwCap.toNat := by decide

theorem witness_EncodeBuildsTheFrame :
    State.reset.msgPresent = false ∧ testMessage.msgPresent = true ∧ testMessage.outPresent = true ∧
      (87#8).toNat < 80 + 4 * ((7 * min testMessage.msgLen.toNat 40 + 7) / 8 / 3 + 1) ∧
      80 + 4 * ((7 * min testMessage.msgLen.toNat 40 + 7) / 8 / 3 + 1) ≤ (88#8).toNat := by decide

theorem witness_BchLaws :
    (0x7CD21000#32).extractLsb' 0 11 = 0 ∧ (0x80000000#32).extractLsb' 0 11 = 0 ∧
      (0x80000801#32).extractLsb' 1 10 = 0 := by decide

theorem witness_ParityLaws : (0x80000002#32).getLsbD 0 = false := by decide

theorem witness_SealedWordsPassBothChecks : (0xFFFFF800#32).extractLsb' 0 11 = 0 := by decide

/-- The data fields 1 and all ones, the latter with the check bits R442 gives it. -/
theorem witness_SealDependsOnTheDataFieldOnly :
    (0x00000800#32).extractLsb' 0 11 = 0 ∧ (0xFFFFF800#32).extractLsb' 0 11 = 0 ∧ bch 0xFFFFF800 = 0xFFFFFFFE := by
  decide +kernel

theorem witness_PackedBitstreamClosedForm : 27 < 280 ∧ 27 < 7 * min 4 40 ∧ 279 < 280 ∧ ¬ 279 < 7 * min 4 40 := by decide

theorem witness_UnpackingRecoversTheCharacters : 39 < min 255 40 ∧ 0 < min 1 40 := by decide

theorem witness_MessageCodewordCarriesItsSlice : (packBufOperand testPacked).length = 35 := by simp

theorem witness_SliceRanges :
    35 ≤ 35 ∧ 11 < msgCount 35 ∧ 0 < msgCount 0 ∧ (packBufOperand testPacked).length = 35 ∧ 14 ≤ 255 := by
  refine ⟨le_rfl, by decide, by decide, by simp, by decide⟩

theorem witness_CommandsWriteOnlyTheirState :
    (∃ t, exec .pack testMessage = .next t ∧ t.err = .ok) ∧
    (∃ t, exec .pack State.reset = .next t ∧ t.err ≠ .ok) ∧
    (∃ t, exec .encode State.reset = .next t ∧ t.err = .nullInput) ∧
    after (exec .encode { testMessage with outCap := 87 }) (·.err) = some .capacity :=
  ⟨⟨_, rfl, rfl⟩, ⟨_, rfl, by decide⟩, ⟨_, rfl, rfl⟩, by decide +kernel⟩

/-- A command for each error and stage, and a success. -/
theorem witness_ErrorsAreRaisedExactlyWhenTheRulesSay :
    after (exec .pack State.reset) (fun t => (t.err, t.stage)) = some (.nullInput, .none) ∧
    after (exec .pack { testMessage with packCap := 3 }) (fun t => (t.err, t.stage)) = some (.capacity, .pack) ∧
    after (exec .msgcw { testPacked with cwCap := 1 }) (fun t => (t.err, t.stage)) = some (.capacity, .msgcw) ∧
    after (exec .encode { testMessage with outCap := 87 }) (fun t => (t.err, t.stage)) = some (.capacity, .frame) ∧
    after (exec .encode { testMessage with outCap := 88 }) (fun t => (t.err, t.stage)) = some (.ok, .none) := by
  decide +kernel

theorem witness_RepeatingACommandChangesNothing : ∃ t, exec .pack testMessage = .next t := ⟨_, rfl⟩

theorem witness_StickyIsClearedOnlyByHostOrReset :
    ∃ s t, step s = .next t ∧ s.sticky = true ∧ t.sticky = false :=
  ⟨onBus { State.reset with sticky := true } (.write 0x008 4 0x100), _, rfl, rfl, rfl⟩

/-- Lengths 40 and 47 of one message, and two messages of length 0 that differ. -/
theorem witness_EncodeReadsOnlyTheTruncatedMessage :
    (∃ s s' t t' : State, s' = { s with msgLen := s'.msgLen, mem := s'.mem } ∧
      min s.msgLen.toNat 40 = min s'.msgLen.toNat 40 ∧
      (∀ i, i < min s.msgLen.toNat 40 → s.msg i = s'.msg i) ∧ s.msgPresent = true ∧ s.outPresent = true ∧
      exec .encode s = .next t ∧ exec .encode s' = .next t' ∧ s ≠ s') ∧
    min (40#8).toNat 40 = min (47#8).toNat 40 :=
  ⟨⟨{ testMessage with msgLen := 0 }, { testMessage with msgLen := 0, mem := [] }, _, _, rfl, rfl,
    fun i h => absurd h (by simp), rfl, rfl, rfl, rfl, by decide⟩, by decide⟩

/-- The shortest and the longest frame: its last group. -/
theorem witness_EveryFrameGroupIsAGoodCodeword :
    after (exec .encode { testMessage with msgLen := 0 }) (fun t => (t.err, t.outLen)) = some (.ok, 84) ∧
    after (exec .encode { testMessage with msgLen := 255 }) (fun t => (t.err, t.outLen)) = some (.ok, 128) ∧
    18 ≤ 20 ∧ 4 * 20 + 4 ≤ 84 ∧ 4 * 31 + 4 ≤ 128 := by decide +kernel

theorem witness_EncodeAgreesWithTheCommandsInSequence :
    testMessage.msgPresent = true ∧ testMessage.outPresent = true ∧ 35 ≤ testMessage.packCap.toNat ∧
      12 ≤ testMessage.cwCap.toNat := by decide

/-- The reset state meets every invariant of the block, with a command next on its bus. -/
theorem witness_StepKeepsTheInvariants :
    let s := onBus State.reset (.write 0x004 4 0x00000008)
    StorageInv s ∧ LengthInv s ∧ StatusInv s ∧ TailInv s ∧ CodewordInv s ∧ ∃ t, step s = .next t := by
  refine ⟨⟨⟨.nil, by simp [onBus]⟩, by simp [onBus]⟩, ⟨by decide, by decide, .inl rfl⟩, by simp [StatusInv, onBus],
    ⟨fun _ _ _ => rfl, fun k _ _ => ?_⟩, ⟨⟨by decide +kernel, by decide +kernel⟩, fun k h => ?_⟩,
    ⟨_, rfl⟩⟩
  · simp [State.cwBuf, Memory.readWord, onBus, unlistedByte, wordLE]
  · simp [onBus] at h

end Sys2Proof.Tests
end

section
/-! PROOFS. The statements of 20_memory.md about the register window. First what one access of the host does, said once
for each kind: a word or a byte read returns a value that depends on the offset alone, a word or a byte write has the
effect of `writeReg`, `writeWindowWord` or `writeWindowByte`. The statements then follow offset by offset. -/

namespace Sys2Proof.Machine

/-! ### Taking an event off the bus changes no register and no buffer (log 1, log 3) -/

@[simp] theorem readReg_accept (r : WordReg) (s : State) (rest : List BusEvent) :
    readReg r (s.accept rest) = readReg r s := by
  cases r <;> rfl

@[simp] theorem readWindowByte_accept (off : Nat) (s : State) (rest : List BusEvent) :
    readWindowByte off (s.accept rest) = readWindowByte off s := rfl

@[simp] theorem readWord_accept (off : Nat) (s : State) (rest : List BusEvent) :
    readWord off (s.accept rest) = readWord off s := by
  unfold readWord
  cases regAt off <;> simp

@[simp] theorem writeReg_accept (r : WordReg) (v : Word) (s : State) (rest : List BusEvent) :
    writeReg r v (s.accept rest) = (writeReg r v s).accept rest := by
  cases r <;> rfl

@[simp] theorem writeWindowWord_accept (off : Nat) (v : Word) (s : State) (rest : List BusEvent) :
    writeWindowWord off v (s.accept rest) = (writeWindowWord off v s).accept rest := by
  unfold writeWindowWord
  split <;> rfl

@[simp] theorem writeWindowByte_accept (off : Nat) (b : Byte) (s : State) (rest : List BusEvent) :
    writeWindowByte off b (s.accept rest) = (writeWindowByte off b s).accept rest := by
  unfold writeWindowByte
  split <;> rfl

/-! ### Where the word registers lie, and which accesses are legal (R100, R203) -/

theorem WordReg.offset_lt (r : WordReg) : r.offset < 0x03C := by
  cases r <;> decide

theorem WordReg.offset_mod_four (r : WordReg) : r.offset % 4 = 0 := by
  cases r <;> rfl

@[simp] theorem regAt_offset (r : WordReg) : regAt r.offset = some r := regAt_eq_some.2 rfl

theorem regAt_eq_none {off : Nat} (h : 0x03C ≤ off) : regAt off = none := by
  cases hr : regAt off with
  | none => rfl
  | some r =>
    have := regAt_eq_some.1 hr
    have := r.offset_lt
    omega

theorem legalAccess_word {off : Nat} (h4 : off % 4 = 0) (hlt : off < 0x200) : legalAccess off 4 = true := by
  simp [legalAccess, h4, Config.windowSize, hlt]

theorem legalAccess_byte {off : Nat} (h : inByteWindow off = true) : legalAccess off 1 = true := by
  simp [legalAccess, h]

theorem legalAccess_reg (r : WordReg) : legalAccess r.offset 4 = true :=
  legalAccess_word r.offset_mod_four (by have := r.offset_lt; omega)

/-! ### What an access does -/

/-- The data of a read is determined: `reads` holds of the value the bus is served with and of no other. -/
theorem reads_iff_of_served {n off : Nat} {s : State} {v w : Word}
    (served : ∀ rest, serveRead off n (s.accept rest) = .next ((s.accept rest).respond v)) :
    reads n off s w ↔ w = v := by
  constructor
  · intro h
    have same : (s.accept []).respond w = (s.accept []).respond v :=
      Host.Outcome.next.inj ((h []).symm.trans (served []))
    exact Option.some.inj (congrArg State.readData same)
  · rintro rfl
    exact served

theorem reads_word_iff {off : Nat} {s : State} {w : Word} (h4 : off % 4 = 0) (hlt : off < 0x200) :
    reads 4 off s w ↔ w = readWord off s :=
  reads_iff_of_served fun _ => by simp [serveRead, legalAccess_word h4 hlt]

theorem reads_byte_iff {off : Nat} {s : State} {w : Word} (h : inByteWindow off = true) :
    reads 1 off s w ↔ w = (readWindowByte off s).setWidth 32 :=
  reads_iff_of_served fun _ => by simp [serveRead, legalAccess_byte h]

theorem reads_reg_iff (r : WordReg) {s : State} {w : Word} : reads 4 r.offset s w ↔ w = readReg r s :=
  reads_iff_of_served fun _ => by simp [serveRead, legalAccess_reg, readWord]

theorem reads_reg (r : WordReg) (s : State) : reads 4 r.offset s (readReg r s) := (reads_reg_iff r).2 rfl

theorem writes_reg {r : WordReg} (hr : r ≠ .cmd) (v : Word) (s : State) :
    writes 4 r.offset v s (writeReg r v s) := by
  intro rest
  have notCmd : writeWord r.offset v (s.accept rest) = .next (writeReg r v (s.accept rest)) := by
    cases r with
    | cmd => exact absurd rfl hr
    | ctrl | status | opa | result | msgLen | packCap | cwCap | outCap | packLen | cwCount | outLen | addrCw | sync
    | idle => rfl
  show serveWrite r.offset 4 v (s.accept rest) = .next ((writeReg r v s).accept rest)
  simp [serveWrite, legalAccess_reg, notCmd]

theorem writes_windowWord {off : Nat} (h4 : off % 4 = 0) (hge : 0x03C ≤ off) (hlt : off < 0x200) (v : Word)
    (s : State) : writes 4 off v s (writeWindowWord off v s) := by
  intro rest
  show serveWrite off 4 v (s.accept rest) = .next ((writeWindowWord off v s).accept rest)
  simp [serveWrite, legalAccess_word h4 hlt, writeWord, regAt_eq_none hge]

theorem writes_windowByte {off : Nat} (h : inByteWindow off = true) (v : Word) (s : State) :
    writes 1 off v s (writeWindowByte off (v.setWidth 8) s) := by
  intro rest
  show serveWrite off 1 v (s.accept rest) = .next ((writeWindowByte off (v.setWidth 8) s).accept rest)
  simp [serveWrite, legalAccess_byte h]

/-- Outside the word registers and `MSG`, a word write is ignored (R205, R207). -/
theorem writes_word_ignored {off : Nat} (h4 : off % 4 = 0) (hge : 0x068 ≤ off ∨ off = 0x03C) (hlt : off < 0x200)
    (v : Word) (s : State) : writes 4 off v s s := by
  have notMsg : inMsg off = false := by simp only [inMsg, decide_eq_false_iff_not]; omega
  simpa [writeWindowWord, notMsg] using writes_windowWord h4 (by omega) hlt v s

/-- Outside `MSG`, a legal byte write is ignored (R205, R207). -/
theorem writes_byte_ignored {off : Nat} (h : (0x080 ≤ off ∧ off < 0x0A4) ∨ (0x100 ≤ off ∧ off < 0x180)) (v : Word)
    (s : State) : writes 1 off v s s := by
  have window : inByteWindow off = true := by simp [inByteWindow, inOutBuf]; omega
  have notMsg : inMsg off = false := by simp only [inMsg, decide_eq_false_iff_not]; omega
  simpa [writeWindowByte, notMsg] using writes_windowByte window v s

/-! ### Reserved offsets and bits (R205) -/

theorem readWindowByte_not_stored {off : Nat} (h : isStored off = false) (s : State) : readWindowByte off s = 0 := by
  simp [readWindowByte, h]

/-- A word of the window none of whose bytes is stored reads zero. -/
theorem readWord_not_stored {off : Nat} (hge : 0x03C ≤ off) (h : ∀ k, k < 4 → isStored (off + k) = false)
    (s : State) : readWord off s = 0 := by
  have zero k (hk : k < 4) : readWindowByte (off + k) s = 0 := readWindowByte_not_stored (h k hk) s
  have zero0 : readWindowByte off s = 0 := zero 0 (by decide)
  simp [readWord, regAt_eq_none hge, zero0, zero 1, zero 2, zero 3, wordLE]

theorem wordLE_top_byte (b0 b1 b2 b3 : Byte) : (wordLE b0 b1 b2 b3).extractLsb' 24 8 = b3 := by
  rw [wordLE, BitVec.extractLsb'_append_eq_of_le (by decide), BitVec.extractLsb'_append_eq_of_le (by decide),
    BitVec.extractLsb'_append_eq_left]

/-- The top byte of the last word of `PACK_BUF` is the reserved byte 0x0A3. -/
theorem readWord_packBuf_last_top (s : State) : (readWord 0x0A0 s).extractLsb' 24 8 = 0 :=
  wordLE_top_byte ..

theorem getLsbD_byteMask (i : Nat) : (0x000000FF : Word).getLsbD i = decide (i < 8) := by
  have mask : (0x000000FF : Word) = (BitVec.allOnes 8).setWidth 32 := rfl
  rw [mask, BitVec.getLsbD_setWidth, BitVec.getLsbD_allOnes]
  by_cases h : i < 8
  · simp [h, show i < 32 by omega]
  · simp [h]

/-- The reserved bits of a one-byte field are zero: zero-extension puts them there (R206). -/
theorem setWidth_and_not_byteMask (b : Byte) : b.setWidth 32 &&& ~~~(0x000000FF : Word) = 0 := by
  ext i hi
  rw [← BitVec.getLsbD_eq_getElem, BitVec.getLsbD_and, BitVec.getLsbD_not, getLsbD_byteMask]
  by_cases h : i < 8
  · simp [h]
  · simp [BitVec.getLsbD_of_ge b i (by omega)]

/-- Reserved bits of every word register read zero (R205). -/
theorem readReg_and_not_fieldMask (r : WordReg) (s : State) : readReg r s &&& ~~~fieldMask r = 0 := by
  cases r with
  | ctrl =>
    simp only [readReg, ctrlWord, fieldMask]
    cases s.outPresent <;> cases s.msgPresent <;> rfl
  | status =>
    simp only [readReg, statusWord, fieldMask]
    cases s.sticky <;> cases s.stage <;> cases s.err <;> rfl
  | cmd => exact BitVec.zero_and
  | msgLen | packCap | cwCap | outCap | packLen | cwCount | outLen => exact setWidth_and_not_byteMask _
  | opa | result | addrCw | sync | idle => exact BitVec.and_zero

/-- Two values that agree under a mask agree on each of its bits. -/
theorem getLsbD_eq_of_and_eq {v w m : Word} (h : v &&& m = w &&& m) {i : Nat} (hm : m.getLsbD i = true) :
    v.getLsbD i = w.getLsbD i := by
  simpa [hm] using congrArg (·.getLsbD i) h

theorem setWidth_eq_of_and_byteMask_eq {v w : Word} (h : v &&& 0x000000FF = w &&& 0x000000FF) :
    v.setWidth 8 = w.setWidth 8 := by
  ext i hi
  have := getLsbD_eq_of_and_eq h ((getLsbD_byteMask i).trans (decide_eq_true hi))
  simpa [← BitVec.getLsbD_eq_getElem, hi] using this

/-- Reserved bits make no difference to a write (R205). -/
theorem writeReg_eq_of_and_fieldMask_eq {r : WordReg} {v w : Word}
    (h : v &&& fieldMask r = w &&& fieldMask r) (s : State) : writeReg r v s = writeReg r w s := by
  cases r with
  | ctrl =>
    have bit0 : v.getLsbD 0 = w.getLsbD 0 := getLsbD_eq_of_and_eq h (by decide)
    have bit1 : v.getLsbD 1 = w.getLsbD 1 := getLsbD_eq_of_and_eq h (by decide)
    simp only [writeReg, State.setCtrl, bit0, bit1]
  | status =>
    have bit8 : v.getLsbD 8 = w.getLsbD 8 := getLsbD_eq_of_and_eq h (by decide)
    simp only [writeReg, State.clearSticky, stickyW1C, bit8]
  | opa =>
    have all : v = w := BitVec.and_allOnes (x := v) ▸ BitVec.and_allOnes (x := w) ▸ h
    rw [all]
  | msgLen => simp only [writeReg, State.setMsgLen, setWidth_eq_of_and_byteMask_eq h]
  | packCap => simp only [writeReg, State.setPackCap, setWidth_eq_of_and_byteMask_eq h]
  | cwCap => simp only [writeReg, State.setCwCap, setWidth_eq_of_and_byteMask_eq h]
  | outCap => simp only [writeReg, State.setOutCap, setWidth_eq_of_and_byteMask_eq h]
  | cmd | result | packLen | cwCount | outLen | addrCw | sync | idle => rfl

/-- No byte of a reserved word is a byte of a buffer (R205). -/
theorem isStored_reserved {off k : Nat} (h4 : off % 4 = 0)
    (h : off = 0x03C ∨ (0x068 ≤ off ∧ off < 0x080) ∨ (0x0A4 ≤ off ∧ off < 0x0C0) ∨ (0x0F0 ≤ off ∧ off < 0x100) ∨
      (0x180 ≤ off ∧ off < 0x200)) (hk : k < 4) : isStored (off + k) = false := by
  simp only [isStored, inMsg, inPackBuf, inCwBuf, inOutBuf, Bool.or_eq_false_iff, decide_eq_false_iff_not]
  omega

/-- Settles O13: an unstored byte reads zero and no write reaches it; a register's reserved bits are zero in `readReg`
and unused by `writeReg`. -/
theorem reservedOffsetsAndBitsReadZeroIgnoreWrites : Obligations.ReservedOffsetsAndBitsReadZeroIgnoreWrites := by
  unfold Obligations.ReservedOffsetsAndBitsReadZeroIgnoreWrites
  intro s
  refine ⟨fun off v ⟨h4, h⟩ => ⟨?_, ?_⟩, ?_, fun w hw => ?_, fun v => ⟨?_, ?_⟩, fun r w hw => ?_,
    fun r v w t hr hvw hv rest => ?_⟩
  · have zero := readWord_not_stored (by omega) (fun _ => isStored_reserved h4 h) s
    exact (reads_word_iff h4 (by omega)).2 zero.symm
  · exact writes_word_ignored h4 (by omega) (by omega) v s
  · exact (reads_byte_iff (by decide)).2 rfl
  · rw [(reads_word_iff (by decide) (by decide)).1 hw]
    exact readWord_packBuf_last_top s
  · exact writes_byte_ignored (by decide) v s
  · exact writes_word_ignored (by decide) (by decide) (by decide) v s
  · rw [(reads_reg_iff r).1 hw]
    exact readReg_and_not_fieldMask r s
  · have same : writeReg r w s = writeReg r v s := (writeReg_eq_of_and_fieldMask_eq hvw s).symm
    calc
      _ = .next ((writeReg r w s).accept rest) := writes_reg hr w s rest
      _ = .next ((writeReg r v s).accept rest) := by rw [same]
      _ = _ := (writes_reg hr v s rest).symm.trans (hv rest)

/-! ### Read-only state (R207) -/

/-- Settles O15: `writeReg` returns the state for a read-only register, and no window but `MSG` takes a write. -/
theorem readOnlyStateIgnoresWrites : Obligations.ReadOnlyStateIgnoresWrites := by
  unfold Obligations.ReadOnlyStateIgnoresWrites
  intro s off v
  refine ⟨?_, fun h4 h => writes_word_ignored h4 (by omega) (by omega) v s, fun h => writes_byte_ignored h v s,
    ⟨s.clearSticky v, writes_reg (r := .status) (by decide) v s, rfl, rfl⟩, reads_reg .cmd s⟩
  rintro (rfl | rfl | rfl | rfl | rfl | rfl | rfl)
  · exact writes_reg (r := .result) (by decide) v s
  · exact writes_reg (r := .packLen) (by decide) v s
  · exact writes_reg (r := .cwCount) (by decide) v s
  · exact writes_reg (r := .outLen) (by decide) v s
  · exact writes_reg (r := .addrCw) (by decide) v s
  · exact writes_reg (r := .sync) (by decide) v s
  · exact writes_reg (r := .idle) (by decide) v s

/-! ### The map of the word registers (R206) -/

theorem ctrlWord_eq_ofNat (s : State) :
    ctrlWord s = BitVec.ofNat 32 (s.msgPresent.toNat + 2 * s.outPresent.toNat) := by
  unfold ctrlWord
  cases s.outPresent <;> cases s.msgPresent <;> rfl

theorem statusWord_eq_ofNat (s : State) :
    statusWord s =
      BitVec.ofNat 32 ((errCode s.err).toNat + 16 * (stageCode s.stage).toNat + 256 * s.sticky.toNat) := by
  unfold statusWord
  cases s.sticky <;> cases s.stage <;> cases s.err <;> rfl

/-- Settles O11: each clause is `readReg` or `writeReg` at that register's offset. -/
theorem registerAccessesFollowTheMap : Obligations.RegisterAccessesFollowTheMap := by
  unfold Obligations.RegisterAccessesFollowTheMap
  intro s
  refine ⟨⟨(reads_reg_iff .ctrl).2 (ctrlWord_eq_ofNat s).symm, reads_reg .cmd s, (reads_reg_iff .status).2 ?_,
    reads_reg .opa s, reads_reg .result s, reads_reg .msgLen s, reads_reg .packCap s, reads_reg .cwCap s,
    reads_reg .outCap s, reads_reg .packLen s, reads_reg .cwCount s, reads_reg .outLen s, reads_reg .addrCw s,
    reads_reg .sync s, reads_reg .idle s⟩, fun v => ⟨?_, ?_, ?_, ?_, ?_, ?_⟩⟩
  · rw [readReg, statusWord_eq_ofNat]
    cases s.err <;> cases s.stage <;> rfl
  · exact writes_reg (r := .ctrl) (by decide) v s
  · exact writes_reg (r := .opa) (by decide) v s
  · exact writes_reg (r := .msgLen) (by decide) v s
  · exact writes_reg (r := .packCap) (by decide) v s
  · exact writes_reg (r := .cwCap) (by decide) v s
  · exact writes_reg (r := .outCap) (by decide) v s

end Sys2Proof.Machine
end

section
/-! PROOFS. The statement of 30_encoding.md about the host's assembly (R311): what `encode` makes of the one command
with an operand, what `ctrl` writes, and the accesses of `text` by index. -/

namespace Sys2Proof.Machine

/-! ### The words (R300, R311) -/

/-- The field form of MSGCW1's word (R300) is R311's arithmetic form. -/
theorem msgcw1_fields_eq_or_shift (b : Byte) :
    0#16 ++ b ++ 0#4 ++ 7#4 = (0x00000007 : Word) ||| (b.setWidth 32 <<< 8) := by
  have fits : b.toNat <<< 8 < 2 ^ 32 := by
    rw [Nat.shiftLeft_eq]
    have := b.isLt
    omega
  have fields : (0#16 ++ b ++ 0#4 ++ 7#4).toNat = b.toNat <<< 8 ||| 7 := by
    rw [BitVec.toNat_append, BitVec.toNat_append, BitVec.toNat_append]
    simp [← Nat.shiftLeft_add]
  apply BitVec.eq_of_toNat_eq
  rw [fields, BitVec.toNat_or, BitVec.toNat_shiftLeft, BitVec.toNat_setWidth_of_le (by decide),
    Nat.mod_eq_of_lt fits, Nat.or_comm]
  rfl

theorem encode_msgcw1 {i : Nat} (h : i < 256) :
    encode (.msgcw1 i) = 0x00000007 ||| (BitVec.ofNat 32 i <<< 8) := by
  rw [← BitVec.setWidth_ofNat_of_le_of_lt (w := 8) (by decide) h]
  exact msgcw1_fields_eq_or_shift (BitVec.ofNat 8 i)

theorem asmCtrl_eq (m o : Bool) : asmCtrl m o = .write 0x000 4 (BitVec.ofNat 32 (2 * o.toNat + m.toNat)) := by
  cases m <;> cases o <;> rfl

/-! ### `text` -/

/-- The 1-byte writes of `text`, before the write to `MSG_LEN`. -/
def textWrites (chars : List Byte) : List BusEvent :=
  (chars.take Config.maxMsgLen).mapIdx (fun i c => asmWrb (Config.msgBase + i) c)

theorem asmText_eq (chars : List Byte) :
    asmText chars = textWrites chars ++ [.write 0x014 4 (BitVec.ofNat 32 chars.length)] := rfl

@[simp] theorem textWrites_length (chars : List Byte) : (textWrites chars).length = min chars.length 40 := by
  rw [textWrites, List.length_mapIdx, List.length_take, Nat.min_comm, Config.maxMsgLen]

theorem textWrites_getElem? {chars : List Byte} {i : Nat} (h : i < min chars.length 40) :
    (textWrites chars)[i]? = some (.write (0x040 + i) 1 ((chars.getD i 0).setWidth 32)) := by
  obtain ⟨hlen, h40⟩ : i < chars.length ∧ i < Config.maxMsgLen := Nat.lt_min.1 h
  have char : (chars.take Config.maxMsgLen)[i]? = some (chars.getD i 0) := by
    rw [List.getElem?_take_of_lt h40, List.getElem?_eq_getElem hlen, List.getD_eq_getElem _ _ hlen]
  rw [textWrites, List.getElem?_mapIdx, char]
  rfl

theorem asmText_length (chars : List Byte) : (asmText chars).length = min chars.length 40 + 1 := by
  rw [asmText_eq, List.length_append, textWrites_length, List.length_singleton]

theorem asmText_getElem?_char {chars : List Byte} {i : Nat} (h : i < min chars.length 40) :
    (asmText chars)[i]? = some (.write (0x040 + i) 1 ((chars.getD i 0).setWidth 32)) := by
  rw [asmText_eq, List.getElem?_append_left (by rwa [textWrites_length]), textWrites_getElem? h]

theorem asmText_getElem?_msgLen (chars : List Byte) :
    (asmText chars)[min chars.length 40]? = some (.write 0x014 4 (BitVec.ofNat 32 chars.length)) := by
  rw [asmText_eq, ← textWrites_length, List.getElem?_concat_length]

/-- Settles O22: the mnemonics without an operand compute to their words, MSGCW1's fields are R311's or-and-shift, and
`text` is its byte writes followed by the write of the length, so both are found by index. -/
theorem assemblyExpandsToItsAccesses : Obligations.AssemblyExpandsToItsAccesses := by
  unfold Obligations.AssemblyExpandsToItsAccesses
  refine ⟨⟨rfl, rfl, rfl, rfl, rfl, rfl, rfl, fun i hi => ?_, rfl, rfl⟩, fun v => rfl, asmCtrl_eq, rfl,
    fun chars _ => ⟨asmText_length chars, fun i hi => asmText_getElem?_char hi, asmText_getElem?_msgLen chars⟩⟩
  rw [asmCommand, encode_msgcw1 hi, asmWr]

end Sys2Proof.Machine
end

section
/-! PROOFS. The statement of 40_control.md: NOP (R400) is a completion with OK and nothing else. -/

namespace Sys2Proof.Machine

/-- A completion with OK keeps `STICKY` (R105, R401), so `ERR` and `STAGE` are all it writes. -/
theorem State.complete_ok (s : State) (g : Stage) : s.complete .ok g = { s with err := .ok, stage := g } := by
  rw [State.complete, stickyAfter_ok]

/-- NOP is `complete(OK, NONE)`, R400's pseudocode. -/
theorem exec_nop (s : State) : exec .nop s = .next (s.complete .ok .none) := rfl

/-- Settles O23: the word 0 decodes by computation, and NOP is a completion with OK, which keeps `STICKY`. -/
theorem nopCompletes : Obligations.NopCompletes := by
  unfold Obligations.NopCompletes
  refine ⟨rfl, fun s => ?_⟩
  rw [exec_nop, State.complete_ok]

end Sys2Proof.Machine
end

section
/-! PROOFS. The statement of 41_bitrev.md: REV8 (R421) through the bits of its result (R420). -/

namespace Sys2Proof.Machine

/-- The word REV8 writes to `RESULT`, R421's `zext_32(rev8(OPA[7:0]))`. -/
def rev8Result (s : State) : Word := (rev8 (opaByte s)).setWidth 32

/-- REV8 is R421's pseudocode: the write of `RESULT`, then `complete(OK, NONE)`. -/
theorem exec_rev8 (s : State) : exec .rev8 s = .next ((s.setResult (rev8Result s)).complete .ok .none) := rfl

theorem getLsbD_opaByte (s : State) (i : Nat) : (opaByte s).getLsbD i = (decide (i < 8) && s.opa.getLsbD i) :=
  BitVec.getLsbD_setWidth 8 s.opa i

/-- Below bit 8 the result is the reversed byte. -/
theorem getLsbD_rev8Result_of_lt {i : Nat} (h : i < 8) (s : State) :
    (rev8Result s).getLsbD i = s.opa.getLsbD (7 - i) := by
  have h32 : i < 32 := by omega
  have mirror : 7 - i < 8 := by omega
  rw [rev8Result, BitVec.getLsbD_setWidth, getLsbD_rev8, getLsbD_opaByte]
  simp [h, h32, mirror]

/-- From bit 8 on the result is the zero extension. -/
theorem getLsbD_rev8Result_of_ge {i : Nat} (h : 8 ≤ i) (s : State) : (rev8Result s).getLsbD i = false := by
  rw [rev8Result, BitVec.getLsbD_setWidth, BitVec.getLsbD_of_ge _ _ h, Bool.and_false]

/-- Settles O24: the word 1 decodes by computation, REV8 writes `RESULT` and completes with OK, and the bits of
`RESULT` are those of `rev8Result`. -/
theorem rev8ReversesTheLowByte : Obligations.Rev8ReversesTheLowByte := by
  unfold Obligations.Rev8ReversesTheLowByte
  refine ⟨rfl, fun s => ⟨{ s with result := rev8Result s, err := .ok, stage := .none }, ?_, rfl,
    fun i hi => getLsbD_rev8Result_of_lt hi s, fun i hi => getLsbD_rev8Result_of_ge hi s⟩⟩
  rw [exec_rev8, State.complete_ok, State.setResult]

end Sys2Proof.Machine
end

section
/-! PROOFS. The statements of 42_bch_parity.md about the commands: BCH (R442), PAR (R451) and SEAL (R456) write `RESULT`
and complete with OK; and what `par` does to each bit of a word, at either span (R450). -/

namespace Sys2Proof.Machine

/-! ### The bits of `par` (R450) -/

/-- The number of ones in a field of a word, counted on the word's own bits. -/
theorem popcount_extractLsb' (w : Word) (lo len : Nat) :
    popcount (w.extractLsb' lo len) = (List.range len).countP fun i => w.getLsbD (lo + i) := by
  refine List.countP_congr fun i hi => ?_
  have inField : i < len := List.mem_range.1 hi
  simp [inField]

/-- How many bits a parity span has; both spans begin at bit 1 (R450). -/
def spanLen : Config.ParitySpan → Nat
  | .b30_1 => 30
  | .b31_1 => 31

/-- The parity of R450, counted on the word's own bits: the two spans differ in their length only. -/
theorem parityOdd_eq (span : Config.ParitySpan) (w : Word) :
    parityOdd span w = decide (((List.range (spanLen span)).countP fun i => w.getLsbD (1 + i)) % 2 = 1) := by
  cases span with
  | b30_1 => rw [parityOdd, popcount_extractLsb']; rfl
  | b31_1 => rw [parityOdd, popcount_extractLsb']; rfl

/-- `par` leaves every bit but bit 0 as it was. -/
theorem getLsbD_par_of_pos (span : Config.ParitySpan) (w : Word) {i : Nat} (h : 1 ≤ i) :
    (par span w).getLsbD i = w.getLsbD i := by
  have pastParity : (BitVec.ofBool (parityOdd span w)).getLsbD i = false := BitVec.getLsbD_of_ge _ i h
  rw [par, BitVec.getLsbD_or, BitVec.getLsbD_setWidth, pastParity, Bool.and_false, Bool.or_false]

/-- Bit 0 of `par` is the parity bit, kept when it was set. -/
theorem getLsbD_par_zero (span : Config.ParitySpan) (w : Word) :
    (par span w).getLsbD 0 = (w.getLsbD 0 || parityOdd span w) := by
  rw [par, BitVec.getLsbD_or, BitVec.getLsbD_setWidth]
  simp

/-! ### The commands -/

/-- A write of `RESULT` followed by `complete(OK, stage)`: the end of every command that only computes a word. -/
theorem State.setResult_complete_ok (s : State) (v : Word) (g : Stage) :
    (s.setResult v).complete .ok g = { s with result := v, err := .ok, stage := g } := by
  rw [State.complete_ok, State.setResult]

/-- BCH is R442's pseudocode. -/
theorem exec_bch (s : State) : exec .bch s = .next ((s.setResult (bch s.opa)).complete .ok .none) := rfl

/-- PAR is R451's pseudocode, at the span R9 gives this hardware. -/
theorem exec_par (s : State) : exec .par s = .next ((s.setResult (par .b30_1 s.opa)).complete .ok .none) := rfl

/-- SEAL is R456's pseudocode, at the span R9 gives this hardware. -/
theorem exec_sealCmd (s : State) :
    exec .sealCmd s = .next ((s.setResult (par .b30_1 (bch s.opa))).complete .ok .none) := rfl

/-- Settles O26: bit 0 is an OR with the counted parity, the other bits are those of the word; the word 3 decodes by
computation, and PAR is a write of `RESULT` and a completion with OK. -/
theorem parCommandSetsTheParityBit : Obligations.ParCommandSetsTheParityBit := by
  unfold Obligations.ParCommandSetsTheParityBit
  refine ⟨rfl, fun span w => ⟨fun _ hi => getLsbD_par_of_pos span w hi, ?_⟩, rfl, fun s => ?_⟩
  · rw [getLsbD_par_zero, parityOdd_eq]
    rfl
  · rw [exec_par, State.setResult_complete_ok]

/-- Settles O25: the word 2 decodes by computation, and BCH is a write of `RESULT` and a completion with OK. -/
theorem bchCommandEncodesOpa : Obligations.BchCommandEncodesOpa := by
  unfold Obligations.BchCommandEncodesOpa
  refine ⟨rfl, fun s => ?_⟩
  rw [exec_bch, State.setResult_complete_ok]

/-- Settles O27: the word 4 decodes by computation, and SEAL is a write of `RESULT` and a completion with OK. -/
theorem sealCommandIsBchThenPar : Obligations.SealCommandIsBchThenPar := by
  unfold Obligations.SealCommandIsBchThenPar
  refine ⟨rfl, fun s => ?_⟩
  rw [exec_sealCmd, State.setResult_complete_ok]

end Sys2Proof.Machine
end

section
/-! PROOFS. The statement of 43_address_codeword.md about the command: ADDRCW (R482) writes the sealed address field of
`OPA` (R480, R481) to `ADDR_CW` and `RESULT` and completes with OK. -/

namespace Sys2Proof.Machine

/-- R480's field with the function code as the rule's own numeral. -/
theorem addrField_eq (a : Word) : addrField a = ((((a >>> 3) &&& 0x7FFFF) <<< 2) ||| 0b11) <<< 11 := by
  have code : Config.funcCode.setWidth 32 = (0b11 : Word) := by decide
  rw [addrField, code]

/-- R481's second form: the address codeword is `par` of `bch` of the field. -/
theorem addrCodeword_eq (span : Config.ParitySpan) (a : Word) : addrCodeword span a = par span (bch (addrField a)) := by
  rw [addrCodeword, sealWord]

/-- ADDRCW is R482's pseudocode, at the span R9 gives this hardware. -/
theorem exec_addrcw (s : State) :
    exec .addrcw s =
      .next (((s.setAddrCw (addrCodeword .b30_1 s.opa)).setResult (addrCodeword .b30_1 s.opa)).complete .ok .none) := rfl

/-- Settles O28: the word 5 decodes by computation, and ADDRCW is a write of `ADDR_CW`, a write of `RESULT` and a
completion with OK; the word written is R481's, with R480's field written out. -/
theorem addrcwBuildsTheAddressCodeword : Obligations.AddrcwBuildsTheAddressCodeword := by
  unfold Obligations.AddrcwBuildsTheAddressCodeword
  refine ⟨rfl, fun s => ?_⟩
  rw [exec_addrcw, State.setResult_complete_ok, State.setAddrCw, addrCodeword_eq, addrField_eq]

end Sys2Proof.Machine
end

section
/-! PROOFS. The statement of 44_packer.md about the command: PACK (R505, R506) ends in one of three ways, told apart by
`MSG_PRESENT` and `PACK_CAP`; when it packs, it is one store into `PACK_BUF` and its registers. -/

namespace Sys2Proof.Machine

/-- A completion with an error is that error in `STATUS`, with `STICKY` set (R601), and nothing else. -/
theorem State.complete_error (s : State) {e : ErrCode} (h : e ≠ .ok) (g : Stage) :
    s.complete e g = { s with err := e, stage := g, sticky := true } := by
  rw [State.complete, stickyAfter_error h]

/-! ### The store into `PACK_BUF`, as offsets of the window (R112) -/

theorem State.read_setPackBuf_outside (s : State) {bs : List Byte} (hlen : bs.length ≤ 35) {a : Nat}
    (h : a < 0x080 ∨ 0x0A3 ≤ a) : (s.setPackBuf bs).mem.read a = s.mem.read a :=
  Memory.read_store_outside (by simp only [Config.packBase]; omega)

/-! ### PACK's three endings (R505, R506) -/

/-- What PACK has written before it completes: `PACK_BUF`, `PACK_LEN` and `RESULT`, in R506's order. -/
def State.packed (s : State) : State :=
  ((s.setPackBuf (packedBuf (msgOperand s) (msgLenOperand s))).setPackLen (packedLen (msgLenOperand s))).setResult
    (BitVec.ofNat 32 (packedLen (msgLenOperand s)))

theorem exec_pack_of_absent {s : State} (absent : s.msgPresent = false) :
    exec .pack s = .next (s.complete .nullInput .none) := by
  obtain ⟨-, out⟩ | ⟨present, -, -⟩ | ⟨present, -, -⟩ := execPack_cases s
  · exact out
  · simp [absent] at present
  · simp [absent] at present

theorem exec_pack_of_exceeds {s : State} (present : s.msgPresent = true)
    (exceeds : s.packCap.toNat < packedLen (msgLenOperand s)) : exec .pack s = .next (s.complete .capacity .pack) := by
  obtain ⟨absent, -⟩ | ⟨-, -, out⟩ | ⟨-, fits, -⟩ := execPack_cases s
  · simp [present] at absent
  · exact out
  · omega

theorem exec_pack_of_fits {s : State} (present : s.msgPresent = true)
    (fits : packedLen (msgLenOperand s) ≤ s.packCap.toNat) : exec .pack s = .next (s.packed.complete .ok .none) := by
  obtain ⟨absent, -⟩ | ⟨-, exceeds, -⟩ | ⟨-, -, out⟩ := execPack_cases s
  · simp [present] at absent
  · omega
  · exact out

theorem State.packed_complete_ok (s : State) (g : Stage) :
    s.packed.complete .ok g = { s with
      mem := s.packed.mem, packLen := BitVec.ofNat 8 (packedLen (msgLenOperand s))
      result := BitVec.ofNat 32 (packedLen (msgLenOperand s)), err := .ok, stage := g } := by
  rw [State.complete_ok]
  rfl

theorem State.packBuf_packed (s : State) {j : Nat} (h : j < 35) :
    s.packed.packBuf j = (packedBuf (msgOperand s) (msgLenOperand s)).getD j 0 := by
  have inside : j < (packedBuf (msgOperand s) (msgLenOperand s)).length := by rwa [packedBuf_length]
  rw [List.getD_eq_getElem _ _ inside]
  exact State.packBuf_setPackBuf s inside

theorem State.read_packed_outside (s : State) {a : Nat} (h : a < 0x080 ∨ 0x0A3 ≤ a) :
    s.packed.mem.read a = s.mem.read a :=
  State.read_setPackBuf_outside s (packedBuf_length ..).le h

/-- Settles O29: the word 6 decodes by computation; without a message or without the capacity PACK is a completion with
that error; otherwise it completes from `State.packed`, whose `PACK_BUF` and other bytes are read off its one store. -/
theorem packCommandPacksTheMessage : Obligations.PackCommandPacksTheMessage := by
  unfold Obligations.PackCommandPacksTheMessage
  refine ⟨rfl, fun s => ⟨fun absent => ?_, fun present exceeds => ?_, fun present fits =>
    ⟨s.packed.complete .ok .none, exec_pack_of_fits present fits, State.packed_complete_ok s .none,
      fun j hj => State.packBuf_packed s hj, fun a ha => State.read_packed_outside s ha⟩⟩⟩
  · rw [exec_pack_of_absent absent, State.complete_error s (by decide)]
  · rw [exec_pack_of_exceeds present exceeds, State.complete_error s (by decide)]

end Sys2Proof.Machine
end

section
/-! PROOFS. The statements of 45_message_codeword.md about the commands. MSGCW1 (R540) writes one sealed slice to
`RESULT`. MSGCW (R537, R538, R541) ends in one of two ways, told apart by `CW_CAP`; when it builds the codewords, it is
one store of twelve words that fills `CW_BUF`, and its registers. -/

namespace Sys2Proof.Machine

/-- A command's operand `PACK_BUF` is the buffer, byte by byte (R112). -/
theorem packBufOperand_eq (s : State) : packBufOperand s = (List.range 35).map s.packBuf := rfl

/-! ### MSGCW1 (R540) -/

/-- The decoder takes the word of MSGCW1 with index `i`, whose fields are R300's, back to that command. -/
theorem decode_encode_msgcw1 {i : Nat} (h : i < 256) : decode (encode (.msgcw1 i)) = .ok (.msgcw1 i) := by
  have wellFormed : (Instr.msgcw1 i).wf = true := by simpa [Instr.wf, Instr.wfWith] using h
  obtain ⟨op, rsv0, rsv1, idx⟩ := Laws.CommandFields.msgcw1 i wellFormed
  simp [decode, decodeWith, op, rsv0, rsv1, idx, Instr.opcode, Instr.idx, opcodeMap]

/-- MSGCW1 is R540's pseudocode, at the span R9 gives this hardware. -/
theorem exec_msgcw1 (i : Nat) (s : State) :
    exec (.msgcw1 i) s = .next ((s.setResult (msgCodeword .b30_1 (packBufOperand s) i)).complete .ok .none) := rfl

/-- Settles O30: the word is the encoding of the command, which decodes back to it, and MSGCW1 is a write of `RESULT`
and a completion with OK. -/
theorem msgcw1ComputesOneSlice : Obligations.Msgcw1ComputesOneSlice := by
  unfold Obligations.Msgcw1ComputesOneSlice
  refine ⟨fun i hi => ?_, fun i s => ?_⟩
  · rw [← encode_msgcw1 hi, decode_encode_msgcw1 hi]
  · rw [exec_msgcw1, State.setResult_complete_ok, packBufOperand_eq]

/-! ### The store into `CW_BUF`, as offsets of the window (R113) -/

theorem State.read_setCwBuf_outside (s : State) {ws : List Word} (hlen : ws.length ≤ 12) {a : Nat}
    (h : a < 0x0C0 ∨ 0x0F0 ≤ a) : (s.setCwBuf ws).mem.read a = s.mem.read a :=
  Memory.read_store_outside (by
    rw [flatMap_four_length bytesLE_length]
    simp only [Config.cwBase]
    omega)

/-! ### MSGCW's two endings (R537, R541) -/

/-- The number of codewords MSGCW builds, `N` of R535 for the packed length in `PACK_LEN`. -/
def State.slices (s : State) : Nat := msgCount (packLenOperand s)

/-- What MSGCW has written before it completes: `CW_BUF`, `CW_COUNT` and `RESULT`, in R541's order. -/
def State.sliced (s : State) : State :=
  ((s.setCwBuf (msgCodewords .b30_1 (packBufOperand s) s.slices)).setCwCount s.slices).setResult
    (BitVec.ofNat 32 s.slices)

theorem exec_msgcw_of_exceeds {s : State} (exceeds : s.cwCap.toNat < s.slices) :
    exec .msgcw s = .next (s.complete .capacity .msgcw) := by
  obtain ⟨-, out⟩ | ⟨fits, -⟩ := execMsgcw_cases s
  · exact out
  · exact absurd exceeds fits.not_gt

theorem exec_msgcw_of_fits {s : State} (fits : s.slices ≤ s.cwCap.toNat) :
    exec .msgcw s = .next (s.sliced.complete .ok .none) := by
  obtain ⟨exceeds, -⟩ | ⟨-, out⟩ := execMsgcw_cases s
  · exact absurd exceeds fits.not_gt
  · exact out

theorem State.sliced_complete_ok (s : State) (g : Stage) :
    s.sliced.complete .ok g = { s with
      mem := s.sliced.mem, cwCount := BitVec.ofNat 8 s.slices, result := BitVec.ofNat 32 s.slices
      err := .ok, stage := g } := by
  rw [State.complete_ok]
  rfl

/-- All twelve words are written, those from `N` on with zero (R538). -/
theorem State.cwBuf_sliced (s : State) {k : Nat} (h : k < 12) :
    s.sliced.cwBuf k = if k < s.slices then msgCodeword .b30_1 (packBufOperand s) k else 0 := by
  have inside : k < (msgCodewords .b30_1 (packBufOperand s) s.slices).length := by rwa [msgCodewords_length]
  exact (State.cwBuf_setCwBuf s inside).trans (msgCodewords_getElem _ _ _ _ inside)

theorem State.read_sliced_outside (s : State) {a : Nat} (h : a < 0x0C0 ∨ 0x0F0 ≤ a) :
    s.sliced.mem.read a = s.mem.read a :=
  State.read_setCwBuf_outside s (msgCodewords_length ..).le h

/-- Settles O31: the word 8 decodes by computation; without the capacity MSGCW is a completion with that error;
otherwise it completes from `State.sliced`, whose `CW_BUF` and other bytes are read off its one store. -/
theorem msgcwBuildsAllCodewords : Obligations.MsgcwBuildsAllCodewords := by
  unfold Obligations.MsgcwBuildsAllCodewords
  refine ⟨rfl, fun s => ⟨fun exceeds => ?_, fun fits =>
    ⟨s.sliced.complete .ok .none, exec_msgcw_of_fits fits, State.sliced_complete_ok s .none,
      fun k hk => State.cwBuf_sliced s hk, fun a ha => State.read_sliced_outside s ha⟩⟩⟩
  rw [exec_msgcw_of_exceeds exceeds, State.complete_error s (by decide)]

end Sys2Proof.Machine
end

section
/-! PROOFS. The statements of 46_frame.md. ENCODE (R571 to R574) ends in one of three ways, told apart by `CTRL` and
`OUT_CAP`; when it writes the frame, that is a preamble followed by words, each big-endian, so the layout of `OUT_BUF`
is read off the list of those words. Without the frame assembler (R570) no word selects ENCODE, and no other command writes
the output. -/

namespace Sys2Proof.Machine

/-! ### The frame as a preamble and words (R572) -/

/-- The words of a frame after its preamble, in order. -/
def frameWords (a : Word) (cws : List Word) (n : Nat) : List Word := Config.syncCw :: a :: cws.take n

theorem frame_eq_preamble_append_words (a : Word) (cws : List Word) (n : Nat) :
    frame a cws n = List.replicate 72 0xAA ++ (frameWords a cws n).flatMap bytesBE := by
  simp only [frame, frameWords, List.flatMap_cons, List.append_assoc]
  rfl

theorem frame_getD_preamble (a : Word) (cws : List Word) (n : Nat) {j : Nat} (h : j < 72) (d : Byte) :
    (frame a cws n).getD j d = 0xAA := by
  rw [frame_eq_preamble_append_words, List.getD_append _ _ _ _ (by rwa [List.length_replicate]),
    List.getD_replicate _ h]

theorem frame_getD_word {a : Word} {cws : List Word} {n k i : Nat} (hk : k < (frameWords a cws n).length) (hi : i < 4)
    (d : Byte) : (frame a cws n).getD (72 + 4 * k + i) d = (bytesBE (frameWords a cws n)[k]).getD i d := by
  have pastPreamble : (List.replicate 72 (0xAA : Byte)).length ≤ 72 + 4 * k + i := by
    rw [List.length_replicate]
    omega
  rw [frame_eq_preamble_append_words, List.getD_append_right _ _ _ _ pastPreamble, List.length_replicate,
    Nat.add_assoc, Nat.add_sub_cancel_left, flatMap_four_getD bytesBE_length hk hi]

/-- Big-endian assembly undoes `be32` (R211). -/
theorem State.outWord_eq_of_bytesBE {t : State} {j : Nat} {w : Word}
    (h : ∀ i, i < 4 → t.outBuf (j + i) = (bytesBE w).getD i 0) : t.outWord j = w := by
  have first : t.outBuf j = (bytesBE w).getD 0 0 := h 0 (by decide)
  rw [State.outWord, first, h 1 (by decide), h 2 (by decide), h 3 (by decide)]
  exact wordLE_bytesLE w

/-! ### ENCODE's three endings (R571, R573, R574) -/

/-- What ENCODE has written before it completes with OK: the intermediates, `OUT_BUF`, `OUT_LEN` and `RESULT`, in R574's
order. -/
def State.framed (s : State) : State :=
  ((s.encodeIntermediates.setOutBuf (encodeFrame s)).setOutLen (encodeLen s)).setResult (BitVec.ofNat 32 (encodeLen s))

theorem exec_encode_of_absent {s : State} (absent : s.msgPresent = false ∨ s.outPresent = false) :
    exec .encode s = .next (s.complete .nullInput .none) := by
  obtain ⟨-, out⟩ | ⟨msg, dst, -, -⟩ | ⟨msg, dst, -, -⟩ := execEncode_cases s
  · exact out
  · simp [msg, dst] at absent
  · simp [msg, dst] at absent

theorem exec_encode_of_exceeds {s : State} (msg : s.msgPresent = true) (dst : s.outPresent = true)
    (exceeds : s.outCap.toNat < encodeLen s) :
    exec .encode s = .next ((s.encodeIntermediates.setOutLen 0).complete .capacity .frame) := by
  obtain ⟨absent, -⟩ | ⟨-, -, -, out⟩ | ⟨-, -, fits, -⟩ := execEncode_cases s
  · simp [msg, dst] at absent
  · exact out
  · omega

theorem exec_encode_of_fits {s : State} (msg : s.msgPresent = true) (dst : s.outPresent = true)
    (fits : encodeLen s ≤ s.outCap.toNat) : exec .encode s = .next (s.framed.complete .ok .none) := by
  obtain ⟨absent, -⟩ | ⟨-, -, exceeds, -⟩ | ⟨-, -, -, out⟩ := execEncode_cases s
  · simp [msg, dst] at absent
  · omega
  · exact out

/-! ### The intermediates (R571) -/

/-- `N` of R571, the number of codewords ENCODE builds. -/
def encodeCount (s : State) : Nat := msgCount (packedLen (msgLenOperand s))

theorem encodeCount_le (s : State) : encodeCount s ≤ 12 := msgCount_le (packedLen_le _)

/-- `t` holds in `PACK_BUF` and `CW_BUF` what ENCODE writes there from `s`; the codewords are those of `t`'s own
`PACK_BUF`. -/
def State.HoldsIntermediates (s t : State) : Prop :=
  (∀ j, j < 35 → t.packBuf j = (packedBuf (msgOperand s) (msgLenOperand s)).getD j 0) ∧
    ∀ k, k < 12 → t.cwBuf k = if k < encodeCount s then msgCodeword .b30_1 (packBufOperand t) k else 0

theorem State.packBuf_encodeIntermediates (s : State) {j : Nat} (h : j < 35) :
    s.encodeIntermediates.packBuf j = (packedBuf (msgOperand s) (msgLenOperand s)).getD j 0 := by
  have inside : j < (packedBuf (msgOperand s) (msgLenOperand s)).length := by rwa [packedBuf_length]
  rw [List.getD_eq_getElem _ _ inside]
  exact (State.packBuf_setCwBuf _ _ h).trans (State.packBuf_setPackBuf s inside)

theorem packBufOperand_encodeIntermediates (s : State) :
    packBufOperand s.encodeIntermediates = packedBuf (msgOperand s) (msgLenOperand s) := by
  refine List.ext_getElem (by rw [packBufOperand_length, packedBuf_length]) fun j hj hj' => ?_
  rw [← List.getD_eq_getElem _ 0 hj', ← State.packBuf_encodeIntermediates s (by rwa [packBufOperand_length] at hj)]
  exact Memory.readBytes_getElem _ _ _ _ hj

theorem State.cwBuf_encodeIntermediates (s : State) {k : Nat} (h : k < 12) :
    s.encodeIntermediates.cwBuf k =
      if k < encodeCount s then msgCodeword .b30_1 (packedBuf (msgOperand s) (msgLenOperand s)) k else 0 := by
  have inside : k < (msgCodewords .b30_1 (packedBuf (msgOperand s) (msgLenOperand s)) (encodeCount s)).length := by
    rwa [msgCodewords_length]
  exact (State.cwBuf_setCwBuf _ inside).trans (msgCodewords_getElem _ _ _ _ inside)

theorem State.holdsIntermediates_encodeIntermediates (s : State) : s.HoldsIntermediates s.encodeIntermediates := by
  refine ⟨fun j hj => State.packBuf_encodeIntermediates s hj, fun k hk => ?_⟩
  rw [State.cwBuf_encodeIntermediates s hk, packBufOperand_encodeIntermediates]

/-- Writing `OUT_BUF` leaves the intermediates where they are. -/
theorem State.HoldsIntermediates.setOutBuf {s t : State} (h : s.HoldsIntermediates t) (bs : List Byte) :
    s.HoldsIntermediates (t.setOutBuf bs) := by
  obtain ⟨packed, codewords⟩ := h
  have operand : packBufOperand (t.setOutBuf bs) = packBufOperand t :=
    List.map_congr_left fun j hj => State.packBuf_setOutBuf t bs (List.mem_range.1 hj)
  refine ⟨fun j hj => ?_, fun k hk => ?_⟩
  · rw [State.packBuf_setOutBuf t bs hj, packed j hj]
  · rw [State.cwBuf_setOutBuf t bs hk, codewords k hk, operand]

theorem State.read_encodeIntermediates_outside (s : State) {x : Nat}
    (h : x < 0x080 ∨ (0x0A3 ≤ x ∧ x < 0x0C0) ∨ 0x0F0 ≤ x) : s.encodeIntermediates.mem.read x = s.mem.read x :=
  (State.read_setCwBuf_outside _ (msgCodewords_length ..).le (by omega)).trans
    (State.read_setPackBuf_outside s (packedBuf_length ..).le (by omega))

/-! ### The frame in `OUT_BUF` (R572, R574) -/

theorem State.outBuf_framed (s : State) {j : Nat} (h : j < encodeLen s) :
    s.framed.outBuf j = (encodeFrame s).getD j 0 := by
  have inside : j < (encodeFrame s).length := by rwa [encodeFrame_length]
  rw [List.getD_eq_getElem _ _ inside]
  exact State.outBuf_setOutBuf _ inside

theorem State.read_framed_outside (s : State) {x : Nat}
    (h : x < 0x080 ∨ (0x0A3 ≤ x ∧ x < 0x0C0) ∨ (0x0F0 ≤ x ∧ x < 0x100) ∨ 0x100 + encodeLen s ≤ x) :
    s.framed.mem.read x = s.mem.read x := by
  have outside : x < Config.outBase ∨ Config.outBase + (encodeFrame s).length ≤ x := by
    rw [encodeFrame_length, Config.outBase]
    omega
  exact (Memory.read_store_outside outside).trans (State.read_encodeIntermediates_outside s (by omega))

/-- The words of the frame ENCODE writes: sync word, address codeword, message codewords. -/
def encodeWords (s : State) : List Word :=
  frameWords (addrCodeword .b30_1 s.opa)
    (msgCodewords .b30_1 (packedBuf (msgOperand s) (msgLenOperand s)) (encodeCount s)) (encodeCount s)

theorem encodeWords_length (s : State) : (encodeWords s).length = encodeCount s + 2 := by
  rw [encodeWords, frameWords, List.length_cons, List.length_cons, List.length_take, msgCodewords_length,
    Nat.min_eq_left (encodeCount_le s)]

theorem State.outBuf_framed_preamble (s : State) {j : Nat} (h : j < 72) : s.framed.outBuf j = 0xAA := by
  obtain ⟨shortest, -⟩ := encodeLen_range s
  rw [State.outBuf_framed s (by omega)]
  exact frame_getD_preamble _ _ _ h 0

theorem State.outWord_framed (s : State) {k : Nat} (h : k < (encodeWords s).length) :
    s.framed.outWord (72 + 4 * k) = (encodeWords s)[k] := by
  have size : encodeLen s = 80 + 4 * encodeCount s := rfl
  have count := encodeWords_length s
  refine State.outWord_eq_of_bytesBE fun i hi => ?_
  rw [State.outBuf_framed s (by omega)]
  exact frame_getD_word h hi 0

theorem State.outWord_framed_codeword (s : State) {k : Nat} (h : k < encodeCount s) :
    s.framed.outWord (80 + 4 * k) = s.framed.cwBuf k := by
  have count := encodeCount_le s
  have inFrame : k + 2 < (encodeWords s).length := by
    rw [encodeWords_length]
    omega
  have offset : 80 + 4 * k = 72 + 4 * (k + 2) := by omega
  have shown : s.framed.cwBuf k = s.encodeIntermediates.cwBuf k := State.cwBuf_setOutBuf _ _ (by omega)
  rw [offset, State.outWord_framed s inFrame, shown, State.cwBuf_encodeIntermediates s (by omega), if_pos h]
  simp [encodeWords, frameWords, msgCodewords_getElem, h]

/-! ### The registers ENCODE writes -/

theorem addrCodeword_opa_eq (s : State) :
    addrCodeword .b30_1 s.opa = par .b30_1 (bch (((((s.opa >>> 3) &&& 0x7FFFF) <<< 2) ||| 0b11) <<< 11)) := by
  rw [addrCodeword_eq, addrField_eq]

/-- Of the registers the intermediates take `PACK_LEN`, `CW_COUNT` and `ADDR_CW` only. -/
theorem State.exists_mem_encodeIntermediates_eq (s : State) : ∃ m, s.encodeIntermediates = { s with
    mem := m, packLen := BitVec.ofNat 8 (packedLen (msgLenOperand s)), cwCount := BitVec.ofNat 8 (encodeCount s)
    addrCw := addrCodeword .b30_1 s.opa } := by
  refine ⟨s.encodeIntermediates.mem, ?_⟩
  simp only [State.encodeIntermediates, State.setAddrCw, State.setCwCount, State.setCwBuf, State.setPackLen,
    State.setPackBuf, State.store, encodeCount, opaWord, Config.paritySpan]

theorem State.encodeIntermediates_complete_capacity (s : State) (g : Stage) :
    (s.encodeIntermediates.setOutLen 0).complete .capacity g = { s with
      mem := s.encodeIntermediates.mem, packLen := BitVec.ofNat 8 (packedLen (msgLenOperand s))
      cwCount := BitVec.ofNat 8 (encodeCount s), addrCw := addrCodeword .b30_1 s.opa, outLen := 0
      err := .capacity, stage := g, sticky := true } := by
  obtain ⟨m, registers⟩ := s.exists_mem_encodeIntermediates_eq
  rw [State.complete_error _ (by decide), registers]
  rfl

theorem State.framed_complete_ok (s : State) (g : Stage) :
    s.framed.complete .ok g = { s with
      mem := s.framed.mem, packLen := BitVec.ofNat 8 (packedLen (msgLenOperand s))
      cwCount := BitVec.ofNat 8 (encodeCount s), addrCw := addrCodeword .b30_1 s.opa
      outLen := BitVec.ofNat 8 (encodeLen s), result := BitVec.ofNat 32 (encodeLen s), err := .ok, stage := g } := by
  obtain ⟨m, registers⟩ := s.exists_mem_encodeIntermediates_eq
  rw [State.complete_ok, State.framed, registers]
  rfl

/-- Settles O32: the word 9 decodes by computation; without a message or an output buffer ENCODE is a completion with
that error; when the frame exceeds `OUT_CAP` it completes from `State.encodeIntermediates` with `OUT_LEN` zero;
otherwise it completes from `State.framed`, whose `OUT_BUF` is read off the words of the frame. -/
theorem encodeBuildsTheFrame : Obligations.EncodeBuildsTheFrame := by
  unfold Obligations.EncodeBuildsTheFrame
  refine ⟨rfl, fun s => ?_⟩
  simp only [← addrCodeword_opa_eq]
  refine ⟨fun absent => ?_, fun msg dst exceeds => ?_, fun msg dst fits => ?_⟩
  · rw [exec_encode_of_absent absent, State.complete_error s (by decide)]
  · exact ⟨_, exec_encode_of_exceeds msg dst exceeds, State.encodeIntermediates_complete_capacity s .frame,
      State.holdsIntermediates_encodeIntermediates s, fun x hx => State.read_encodeIntermediates_outside s hx⟩
  · have count := encodeWords_length s
    exact ⟨_, exec_encode_of_fits msg dst fits, State.framed_complete_ok s .none,
      (State.holdsIntermediates_encodeIntermediates s).setOutBuf (encodeFrame s),
      fun j hj => State.outBuf_framed_preamble s hj,
      State.outWord_framed s (k := 0) (by omega), State.outWord_framed s (k := 1) (by omega),
      fun k hk => State.outWord_framed_codeword s hk, fun x hx => State.read_framed_outside s hx⟩

/-! ### Without the frame assembler (R570) -/

theorem opcodeMap_false_ne_encode (op idx : Nat) : opcodeMap false op idx ≠ some .encode := by
  unfold opcodeMap
  split <;> simp

theorem decodeWith_false_ne_encode (v : Word) : decodeWith false v ≠ .ok .encode := by
  unfold decodeWith
  split
  · simp
  · split
    · simp
    · next i selected =>
      split
      · simp
      · rintro ⟨⟩
        exact opcodeMap_false_ne_encode _ _ selected

/-- The host's output, `OUT_LEN`, `OUT_CAP`, `CTRL.OUT_PRESENT` and `OUT_BUF`, is in `t` what it is in `s`. -/
def State.OutputKept (s t : State) : Prop :=
  t.outLen = s.outLen ∧ t.outCap = s.outCap ∧ t.outPresent = s.outPresent ∧ ∀ j, j < 128 → t.outBuf j = s.outBuf j

/-- A completion, whatever its outcome, keeps the output. -/
theorem State.outputKept_complete (s : State) (e : ErrCode) (g : Stage) : s.OutputKept (s.complete e g) :=
  ⟨rfl, rfl, rfl, fun _ _ => rfl⟩

/-- A write of `RESULT` and a completion keep the output. -/
theorem State.outputKept_setResult_complete (s : State) (v : Word) (e : ErrCode) (g : Stage) :
    s.OutputKept ((s.setResult v).complete e g) :=
  ⟨rfl, rfl, rfl, fun _ _ => rfl⟩

/-- ENCODE is the only command that can write the output. -/
theorem exec_outputKept {i : Instr} (notEncode : i ≠ .encode) (s : State) :
    ∃ t, exec i s = .next t ∧ s.OutputKept t := by
  cases i with
  | nop => exact ⟨_, exec_nop s, s.outputKept_complete _ _⟩
  | rev8 => exact ⟨_, exec_rev8 s, s.outputKept_setResult_complete _ _ _⟩
  | bch => exact ⟨_, exec_bch s, s.outputKept_setResult_complete _ _ _⟩
  | par => exact ⟨_, exec_par s, s.outputKept_setResult_complete _ _ _⟩
  | sealCmd => exact ⟨_, exec_sealCmd s, s.outputKept_setResult_complete _ _ _⟩
  | addrcw => exact ⟨_, exec_addrcw s, rfl, rfl, rfl, fun _ _ => rfl⟩
  | pack =>
    obtain ⟨-, out⟩ | ⟨-, -, out⟩ | ⟨-, -, out⟩ := execPack_cases s
    · exact ⟨_, out, s.outputKept_complete _ _⟩
    · exact ⟨_, out, s.outputKept_complete _ _⟩
    · exact ⟨_, out, rfl, rfl, rfl, fun j _ => State.outBuf_setPackBuf s j (packedBuf_length ..).le⟩
  | msgcw1 idx => exact ⟨_, exec_msgcw1 idx s, s.outputKept_setResult_complete _ _ _⟩
  | msgcw =>
    obtain ⟨-, out⟩ | ⟨-, out⟩ := execMsgcw_cases s
    · exact ⟨_, out, s.outputKept_complete _ _⟩
    · exact ⟨_, out, rfl, rfl, rfl, fun j _ => State.outBuf_setCwBuf s j (msgCodewords_length ..).le⟩
  | encode => exact absurd rfl notEncode

theorem writeCmd_false_outputKept (v : Word) (s : State) : ∃ t, writeCmd false v s = .next t ∧ s.OutputKept t := by
  obtain ⟨i, selected, out⟩ | ⟨-, -, out⟩ := writeCmd_cases false v s
  · have notEncode : i ≠ .encode := by
      rintro rfl
      exact decodeWith_false_ne_encode v selected
    rw [out]
    exact exec_outputKept notEncode s
  · exact ⟨_, out, s.outputKept_complete _ _⟩

/-- Settles O21: the word 9 is no command by computation and is reported as R610 says; the opcode map of such a block
has no row for ENCODE; and every other command, as well as the report of an illegal word, keeps the output. -/
theorem withoutFrameEncodeDoesNotExist : Obligations.WithoutFrameEncodeDoesNotExist := by
  unfold Obligations.WithoutFrameEncodeDoesNotExist
  refine ⟨rfl, fun s => ?_, decodeWith_false_ne_encode, fun v s t out => ?_⟩
  · have reported : writeCmd false 0x00000009 s = .next (s.complete .illegalCmd .none) := rfl
    rw [reported, State.complete_error s (by decide)]
  · obtain ⟨t', out', kept⟩ := writeCmd_false_outputKept v s
    obtain rfl : t' = t := Host.Outcome.next.inj (out'.symm.trans out)
    exact kept

end Sys2Proof.Machine
end

section
/-! PROOFS. The statements of 60_exceptions.md about `STATUS`: what the report of a word that is no command writes (R610),
and which accesses change `ERR` and `STAGE` (R603). -/

namespace Sys2Proof.Machine

/-! ### The words that are no command (R301, R610) -/

/-- The rows of the opcode map (R302): 0x0 to 0x8, and 0x9 with the frame assembler. -/
theorem opcodeMap_eq_some {hasFrame : Bool} {op idx : Nat} {i : Instr} (h : opcodeMap hasFrame op idx = some i) :
    op < 0xA ∧ (op = 9 → hasFrame = true) := by
  unfold opcodeMap at h
  split at h
  case h_10 => exact ⟨by decide, fun _ => (Option.ite_none_right_eq_some.1 h).1⟩
  case h_11 => cases h
  all_goals exact ⟨by decide, nofun⟩

/-- The decoder accepts a word when it passes the three checks of R301, and then answers its row of the opcode map. -/
theorem decodeWith_eq_ok_iff {hasFrame : Bool} {v : Word} {i : Instr} :
    decodeWith hasFrame v = .ok i ↔ rsv0Field v = 0 ∧ rsv1Field v = 0 ∧
      opcodeMap hasFrame (opField v).toNat (idxField v).toNat = some i ∧
      ((opField v).toNat = 7 ∨ idxField v = 0) := by
  unfold decodeWith
  by_cases reserved : rsv0Field v = 0 ∧ rsv1Field v = 0
  · rw [if_neg (by simp [reserved])]
    cases opcodeMap hasFrame (opField v).toNat (idxField v).toNat with
    | none => simp
    | some j =>
      dsimp only
      by_cases index : (opField v).toNat = 7 ∨ idxField v = 0
      · rw [if_neg (by tauto)]
        simp only [reserved, index, Except.ok.injEq, Option.some.injEq, and_true, true_and]
      · rw [if_pos (not_or.1 index)]
        simp only [index, reduceCtorEq, and_false]
  · rw [if_pos (by tauto)]
    simp only [reduceCtorEq, false_iff]
    tauto

/-- The report of an illegal word, field by field (R610). -/
theorem State.illegalCommand_eq (s : State) :
    s.illegalCommand = { s with err := .illegalCmd, stage := .none, sticky := true } :=
  s.complete_error (by decide) .none

/-- Settles O4: each of R610's four ways contradicts one check of the decoder, so the word is reported and not run. -/
theorem illegalWordWritesStatusOnly : Obligations.IllegalWordWritesStatusOnly := by
  unfold Obligations.IllegalWordWritesStatusOnly
  intro hasFrame v s illegal
  obtain ⟨i, accepted, -⟩ | ⟨-, -, out⟩ := writeCmd_cases hasFrame v s
  · obtain ⟨rsv0, rsv1, selected, index⟩ := decodeWith_eq_ok_iff.1 accepted
    obtain ⟨opBound, frame⟩ := opcodeMap_eq_some selected
    obtain bad | bad | bad | ⟨op, noFrame⟩ | ⟨idx, op⟩ := illegal
    · exact absurd rsv0 bad
    · exact absurd rsv1 bad
    · omega
    · exact absurd (frame op) (by simp [noFrame])
    · exact absurd index (not_or.2 ⟨op, idx⟩)
  · rw [out, State.illegalCommand_eq]

/-! ### The accesses that change `ERR` and `STAGE` (R603) -/

@[simp] theorem writeReg_err (r : WordReg) (v : Word) (s : State) : (writeReg r v s).err = s.err := by
  cases r <;> rfl

@[simp] theorem writeReg_stage (r : WordReg) (v : Word) (s : State) : (writeReg r v s).stage = s.stage := by
  cases r <;> rfl

/-- Every access but a write to `CMD` keeps the outcome of the last command (R603). -/
theorem serve_keeps_outcome {e : BusEvent} {s t : State} (notReset : e ≠ .reset) (notCmd : ∀ v, e ≠ .write 0x004 4 v)
    (served : serve e s = .next t) : t.err = s.err ∧ t.stage = s.stage := by
  have keeps {u : State} (out : serve e s = .next u) (same : u.err = s.err ∧ u.stage = s.stage) :
      t.err = s.err ∧ t.stage = s.stage := by
    cases out.symm.trans served
    exact same
  obtain ⟨_, _, -, -, _, out⟩ | ⟨v, isCmd, -⟩ | ⟨_, _, -, -, out⟩ | ⟨_, _, _, -, -, -, out | ⟨-, _, -, out⟩⟩ |
    ⟨isReset, -⟩ | ⟨_, _, _, -, -, out⟩ := serve_cases e s
  · exact keeps out ⟨rfl, rfl⟩
  · exact absurd isCmd (notCmd v)
  · exact keeps out ⟨writeReg_err .., writeReg_stage ..⟩
  · exact keeps out ⟨rfl, rfl⟩
  · exact keeps out ⟨rfl, rfl⟩
  · exact absurd isReset notReset
  · cases out.symm.trans served

/-- Settles O14: `writeReg` of `STATUS` is the write-1-to-clear of `STICKY`; a step idles, which changes nothing, or
serves an event, and only a reset or a write to `CMD` does not keep the outcome. -/
theorem statusWriteOnlyClearsSticky : Obligations.StatusWriteOnlyClearsSticky := by
  unfold Obligations.StatusWriteOnlyClearsSticky
  refine ⟨fun s v => writes_reg (r := .status) (by decide) v s, fun s t stepped changed => ?_⟩
  obtain ⟨-, idle⟩ | ⟨e, rest, pending, out⟩ := step_cases s
  · cases idle.symm.trans stepped
    simp at changed
  · refine ⟨e, rest, pending, ?_⟩
    by_contra other
    obtain ⟨notReset, notCmd⟩ := not_or.1 other
    obtain ⟨err, stage⟩ := serve_keeps_outcome notReset (not_exists.1 notCmd) (out.symm.trans stepped)
    exact changed.elim (absurd err) (absurd stage)

end Sys2Proof.Machine
end

section
/-! PROOFS. The statements of 70_reset_and_hazards.md. The store is empty at reset, so every byte of every buffer reads
as the byte no offset lists, and every register reads the field of `State.reset` behind it. -/

namespace Sys2Proof.Machine

/-! ### What the reset state reads as (R700) -/

@[simp] theorem Memory.readWord_nil (a : Nat) : Memory.readWord [] a = 0 := by
  simp [Memory.readWord, unlistedByte, wordLE]

@[simp] theorem State.reset_msg (i : Nat) : State.reset.msg i = 0 := Memory.read_nil _

@[simp] theorem State.reset_packBuf (j : Nat) : State.reset.packBuf j = 0 := Memory.read_nil _

@[simp] theorem State.reset_cwBuf (k : Nat) : State.reset.cwBuf k = 0 := Memory.readWord_nil _

@[simp] theorem State.reset_outBuf (j : Nat) : State.reset.outBuf j = 0 := Memory.read_nil _

@[simp] theorem State.reset_ctrlWord : ctrlWord State.reset = 0 := by
  simp [ctrlWord_eq_ofNat]

@[simp] theorem State.reset_statusWord : statusWord State.reset = 0 := by
  simp [statusWord_eq_ofNat, errCode, stageCode]

/-- Settles O1: `CTRL` and `STATUS` from their fields, the other registers and the constants each by its own field,
and the buffers from the empty store. -/
theorem resetStateHasTheTabledValues : Obligations.ResetStateHasTheTabledValues := by
  unfold Obligations.ResetStateHasTheTabledValues
  exact ⟨State.reset_ctrlWord, State.reset_statusWord, State.reset_opa, State.reset_result, State.reset_msgLen,
    State.reset_packCap, State.reset_cwCap, State.reset_outCap, State.reset_packLen, State.reset_cwCount,
    State.reset_outLen, State.reset_addrCw, rfl, rfl, fun i _ => State.reset_msg i, fun j _ => State.reset_packBuf j,
    fun k _ => State.reset_cwBuf k, fun j _ => State.reset_outBuf j⟩

end Sys2Proof.Machine
end

section
/-! PROOFS. The statements of 30_encoding.md about the decoder and the encoder. A word is its four fields (R300), the
opcode map sends an `OP` and an index to the one command that has them (R302), and so a word decodes to a command
exactly when it is the word of that command. -/

namespace Sys2Proof.Machine

/-! ### The command word and its fields (R300) -/

/-- A word is its four fields, `RSV1` at the top. -/
theorem fields_append (v : Word) : rsv1Field v ++ idxField v ++ rsv0Field v ++ opField v = v := by
  have reserved1 : rsv1Field v ++ idxField v = v.extractLsb' 8 24 :=
    BitVec.extractLsb'_append_extractLsb'_eq_extractLsb' rfl
  have reserved0 : v.extractLsb' 8 24 ++ rsv0Field v = v.extractLsb' 4 28 :=
    BitVec.extractLsb'_append_extractLsb'_eq_extractLsb' rfl
  rw [reserved1, reserved0]
  exact BitVec.extractLsb'_append_extractLsb' (w := 28) (len := 4)

/-- A command that a block without the frame assembler has, this hardware has too. -/
theorem wf_of_wfWith {hasFrame : Bool} {i : Instr} (h : i.wfWith hasFrame = true) : i.wf = true := by
  cases i with
  | msgcw1 idx => exact h
  | nop | rev8 | bch | par | sealCmd | addrcw | pack | msgcw | encode => rfl

/-- The fields of a well-formed command's word, for every command. -/
theorem encode_fields {i : Instr} (h : i.wf = true) :
    opField (encode i) = i.opcode ∧ rsv0Field (encode i) = 0 ∧ rsv1Field (encode i) = 0 ∧
      (idxField (encode i)).toNat = i.idx := by
  have statement : Laws.CommandFields.Statement i := by
    cases i with
    | nop => exact Laws.CommandFields.nop
    | rev8 => exact Laws.CommandFields.rev8
    | bch => exact Laws.CommandFields.bch
    | par => exact Laws.CommandFields.par
    | sealCmd => exact Laws.CommandFields.sealCmd
    | addrcw => exact Laws.CommandFields.addrcw
    | pack => exact Laws.CommandFields.pack
    | msgcw1 idx => exact Laws.CommandFields.msgcw1 idx
    | msgcw => exact Laws.CommandFields.msgcw
    | encode => exact Laws.CommandFields.encode
  exact statement h

/-- `IDX` is zero in the word of every command but MSGCW1. -/
theorem opcode_eq_seven_or_idx_eq_zero (i : Instr) : i.opcode.toNat = 7 ∨ i.idx = 0 := by
  cases i with
  | msgcw1 idx => exact .inl rfl
  | nop | rev8 | bch | par | sealCmd | addrcw | pack | msgcw | encode => exact .inr rfl

/-! ### The opcode map (R302) -/

/-- The map sends a command's own `OP` and index back to the command. -/
theorem opcodeMap_opcode {hasFrame : Bool} {i : Instr} (h : i.wfWith hasFrame = true) :
    opcodeMap hasFrame i.opcode.toNat i.idx = some i := by
  cases i with
  | encode => exact if_pos h
  | nop | rev8 | bch | par | sealCmd | addrcw | pack | msgcw1 idx | msgcw => rfl

/-- A command the map selects has the `OP` it was selected by, and the index when that is MSGCW1's. -/
theorem opcode_of_opcodeMap_eq_some {hasFrame : Bool} {op idx : Nat} {i : Instr}
    (h : opcodeMap hasFrame op idx = some i) :
    i.opcode.toNat = op ∧ (op = 7 ∨ idx = 0 → i.idx = idx) ∧ (idx < 256 → i.wfWith hasFrame = true) := by
  unfold opcodeMap at h
  split at h
  case h_8 =>
    cases h
    exact ⟨rfl, fun _ => rfl, decide_eq_true⟩
  case h_10 =>
    obtain ⟨frame, selected⟩ := Option.ite_none_right_eq_some.1 h
    cases selected
    exact ⟨rfl, fun index => (index.resolve_left (by decide)).symm, fun _ => frame⟩
  case h_11 => cases h
  all_goals
    cases h
    exact ⟨rfl, fun index => (index.resolve_left (by decide)).symm, fun _ => rfl⟩

/-! ### Decoding and encoding (R301, R302) -/

theorem decodeWith_encode {hasFrame : Bool} {i : Instr} (h : i.wfWith hasFrame = true) :
    decodeWith hasFrame (encode i) = .ok i := by
  obtain ⟨op, rsv0, rsv1, idx⟩ := encode_fields (wf_of_wfWith h)
  refine decodeWith_eq_ok_iff.2 ⟨rsv0, rsv1, ?_, ?_⟩
  · rw [op, idx, opcodeMap_opcode h]
  · rw [op, ← BitVec.toNat_inj, idx]
    exact opcode_eq_seven_or_idx_eq_zero i

theorem encode_of_decodeWith {hasFrame : Bool} {v : Word} {i : Instr} (h : decodeWith hasFrame v = .ok i) :
    i.wfWith hasFrame = true ∧ encode i = v := by
  obtain ⟨rsv0, rsv1, selected, index⟩ := decodeWith_eq_ok_iff.1 h
  obtain ⟨op, idx, wellFormed⟩ := opcode_of_opcodeMap_eq_some selected
  have sameOp : i.opcode = opField v := BitVec.eq_of_toNat_eq op
  have sameIdx : i.idx = (idxField v).toNat := idx (index.imp_right (congrArg BitVec.toNat))
  refine ⟨wellFormed (idxField v).isLt, ?_⟩
  calc
    encode i = 0#16 ++ idxField v ++ 0#4 ++ opField v := by
      rw [encode, sameOp, sameIdx, BitVec.ofNat_toNat, BitVec.setWidth_eq]
    _ = rsv1Field v ++ idxField v ++ rsv0Field v ++ opField v := by rw [rsv0, rsv1]; rfl
    _ = v := fields_append v

/-- The words that decode to a command are its own word, and that only when the command exists. -/
theorem decodeWith_eq_ok_iff_encode {hasFrame : Bool} {v : Word} {i : Instr} :
    decodeWith hasFrame v = .ok i ↔ i.wfWith hasFrame = true ∧ v = encode i := by
  constructor
  · intro h
    exact (encode_of_decodeWith h).imp_right Eq.symm
  · rintro ⟨wellFormed, rfl⟩
    exact decodeWith_encode wellFormed

/-- Settles O19: the fields of a command's word select it in the opcode map, and the fields of a word that selects a
command are those of the command's word. -/
theorem decodeAndEncodeAgree : Obligations.DecodeAndEncodeAgree := by
  unfold Obligations.DecodeAndEncodeAgree
  exact ⟨fun _ _ => decodeWith_encode, fun _ _ _ => encode_of_decodeWith⟩

/-! ### The list of legal words -/

/-- The word of each command as R302 lists it. -/
theorem wfWith_and_eq_encode_iff (hasFrame : Bool) (v : Word) (i : Instr) :
    (i.wfWith hasFrame = true ∧ v = encode i) ↔
      (v = 0x00000000 ∧ i = .nop) ∨ (v = 0x00000001 ∧ i = .rev8) ∨ (v = 0x00000002 ∧ i = .bch) ∨
      (v = 0x00000003 ∧ i = .par) ∨ (v = 0x00000004 ∧ i = .sealCmd) ∨ (v = 0x00000005 ∧ i = .addrcw) ∨
      (v = 0x00000006 ∧ i = .pack) ∨
      (∃ k, k < 256 ∧ v = 0x00000007 ||| (BitVec.ofNat 32 k <<< 8) ∧ i = .msgcw1 k) ∨
      (v = 0x00000008 ∧ i = .msgcw) ∨ (hasFrame = true ∧ v = 0x00000009 ∧ i = .encode) := by
  cases i with
  | msgcw1 idx =>
    have range : Instr.wfWith hasFrame (.msgcw1 idx) = true ↔ idx < 256 := decide_eq_true_iff
    have word : (idx < 256 ∧ v = encode (.msgcw1 idx)) ↔ idx < 256 ∧ v = 0x00000007 ||| (BitVec.ofNat 32 idx <<< 8) :=
      and_congr_right fun h => by rw [encode_msgcw1 h]
    simp [range, word]
  | encode =>
    have word : encode .encode = 0x00000009 := by decide
    simp [Instr.wfWith, word]
  | nop | rev8 | bch | par | sealCmd | addrcw | pack | msgcw =>
    simp [Instr.wfWith, encode, Instr.opcode, Instr.idx]

theorem writeCmd_of_decodeWith_ok {hasFrame : Bool} {v : Word} {i : Instr} (h : decodeWith hasFrame v = .ok i)
    (s : State) : writeCmd hasFrame v s = exec i s := by
  rw [writeCmd, h]

/-- Settles O18: the word of each command is the listed one; a write to `CMD` runs what the word decodes to, and
otherwise reports it. -/
theorem decoderAcceptsExactlyTheLegalWords : Obligations.DecoderAcceptsExactlyTheLegalWords := by
  unfold Obligations.DecoderAcceptsExactlyTheLegalWords
  refine ⟨fun hasFrame v i => decodeWith_eq_ok_iff_encode.trans (wfWith_and_eq_encode_iff hasFrame v i),
    fun hasFrame v i s accepted => writeCmd_of_decodeWith_ok accepted s, fun hasFrame v s illegal => ?_⟩
  obtain ⟨i, accepted, -⟩ | ⟨-, -, reported⟩ := writeCmd_cases hasFrame v s
  · exact absurd accepted (illegal i)
  · rw [reported, State.illegalCommand_eq]

theorem decode_encode {i : Instr} (h : i.wf = true) : decode (encode i) = .ok i := decodeWith_encode h

/-- Settles O20: the legal words are those of well-formed commands, and the decoder computes the reason of each of the
others. -/
theorem writtenOutWordsDecode : Obligations.WrittenOutWordsDecode := by
  unfold Obligations.WrittenOutWordsDecode
  exact ⟨decode_encode (i := .nop) rfl, decode_encode (i := .rev8) rfl, decode_encode (i := .sealCmd) rfl,
    decode_encode (i := .msgcw1 1) rfl, decode_encode (i := .msgcw1 255) rfl, decode_encode (i := .encode) rfl,
    rfl, rfl, rfl, rfl⟩

end Sys2Proof.Machine
end

section
/-! PROOFS. The statements of 40_control.md, and of 20_memory.md and 10_state.md about steps. What a command leaves is
said once, as the ways in which it can run; what an access other than a write to `CMD` leaves is said once, as the
results it keeps; the statements are read off these two. -/

namespace Sys2Proof.Machine

/-! ### The ways a command runs (R401, R402) -/

/-- The word a command that only computes writes to `RESULT`; none for the other commands. -/
def computedWord (s : State) : Instr → Option Word
  | .rev8 => some (rev8Result s)
  | .bch => some (bch s.opa)
  | .par => some (par .b30_1 s.opa)
  | .sealCmd => some (sealWord .b30_1 s.opa)
  | .msgcw1 idx => some (msgCodeword .b30_1 (packBufOperand s) idx)
  | .nop | .addrcw | .pack | .msgcw | .encode => none

/-- What ADDRCW has written before it completes: `ADDR_CW` and `RESULT` (R482). -/
def State.addressed (s : State) : State :=
  (s.setAddrCw (addrCodeword .b30_1 s.opa)).setResult (addrCodeword .b30_1 s.opa)

/-- `Runs s i t`: from `s` the command `i` ends in `t`, by one of its endings, each with the condition under which the
command ends so. -/
inductive Runs (s : State) : Instr → State → Prop
  | nop : Runs s .nop (s.complete .ok .none)
  | computed {i : Instr} {v : Word} (word : computedWord s i = some v) :
    Runs s i ((s.setResult v).complete .ok .none)
  | addrcw : Runs s .addrcw (s.addressed.complete .ok .none)
  | packAbsent (absent : s.msgPresent = false) : Runs s .pack (s.complete .nullInput .none)
  | packExceeds (present : s.msgPresent = true) (exceeds : s.packCap.toNat < packedLen (msgLenOperand s)) :
    Runs s .pack (s.complete .capacity .pack)
  | packFits (present : s.msgPresent = true) (fits : packedLen (msgLenOperand s) ≤ s.packCap.toNat) :
    Runs s .pack (s.packed.complete .ok .none)
  | msgcwExceeds (exceeds : s.cwCap.toNat < s.slices) : Runs s .msgcw (s.complete .capacity .msgcw)
  | msgcwFits (fits : s.slices ≤ s.cwCap.toNat) : Runs s .msgcw (s.sliced.complete .ok .none)
  | encodeAbsent (absent : s.msgPresent = false ∨ s.outPresent = false) :
    Runs s .encode (s.complete .nullInput .none)
  | encodeExceeds (msg : s.msgPresent = true) (dst : s.outPresent = true) (exceeds : s.outCap.toNat < encodeLen s) :
    Runs s .encode ((s.encodeIntermediates.setOutLen 0).complete .capacity .frame)
  | encodeFits (msg : s.msgPresent = true) (dst : s.outPresent = true) (fits : encodeLen s ≤ s.outCap.toNat) :
    Runs s .encode (s.framed.complete .ok .none)

/-- Every command runs in one of these ways, from every state. -/
theorem exec_runs (i : Instr) (s : State) : ∃ t, exec i s = .next t ∧ Runs s i t := by
  cases i with
  | nop => exact ⟨_, exec_nop s, .nop⟩
  | rev8 => exact ⟨_, exec_rev8 s, .computed rfl⟩
  | bch => exact ⟨_, exec_bch s, .computed rfl⟩
  | par => exact ⟨_, exec_par s, .computed rfl⟩
  | sealCmd => exact ⟨_, exec_sealCmd s, .computed rfl⟩
  | addrcw => exact ⟨_, exec_addrcw s, .addrcw⟩
  | pack =>
    obtain ⟨absent, out⟩ | ⟨present, exceeds, out⟩ | ⟨present, fits, out⟩ := execPack_cases s
    · exact ⟨_, out, .packAbsent absent⟩
    · exact ⟨_, out, .packExceeds present exceeds⟩
    · exact ⟨_, out, .packFits present fits⟩
  | msgcw1 idx => exact ⟨_, exec_msgcw1 idx s, .computed rfl⟩
  | msgcw =>
    obtain ⟨exceeds, out⟩ | ⟨fits, out⟩ := execMsgcw_cases s
    · exact ⟨_, out, .msgcwExceeds exceeds⟩
    · exact ⟨_, out, .msgcwFits fits⟩
  | encode =>
    obtain ⟨absent, out⟩ | ⟨msg, dst, exceeds, out⟩ | ⟨msg, dst, fits, out⟩ := execEncode_cases s
    · exact ⟨_, out, .encodeAbsent absent⟩
    · exact ⟨_, out, .encodeExceeds msg dst exceeds⟩
    · exact ⟨_, out, .encodeFits msg dst fits⟩

theorem runs_of_exec {i : Instr} {s t : State} (h : exec i s = .next t) : Runs s i t := by
  obtain ⟨u, out, runs⟩ := exec_runs i s
  cases out.symm.trans h
  exact runs

/-- Settles O5: a command runs in one of its ways. -/
theorem everyCommandCompletes : Obligations.EveryCommandCompletes := by
  unfold Obligations.EveryCommandCompletes
  intro i s
  obtain ⟨t, out, -⟩ := exec_runs i s
  exact ⟨t, out⟩

/-! ### What every command keeps -/

/-- The registers only the host writes (R101, R104, R106, R107), and the model's two fields of the bus, are in `t` what
they are in `s`. -/
def State.HostRegistersKept (s t : State) : Prop :=
  t.opa = s.opa ∧ t.msgPresent = s.msgPresent ∧ t.outPresent = s.outPresent ∧ t.msgLen = s.msgLen ∧
    t.packCap = s.packCap ∧ t.cwCap = s.cwCap ∧ t.outCap = s.outCap ∧ t.pending = s.pending ∧ t.readData = s.readData

theorem Runs.hostRegistersKept {s t : State} {i : Instr} (h : Runs s i t) : s.HostRegistersKept t := by
  cases h with
  | encodeExceeds => simp [State.HostRegistersKept]
  | encodeFits => simp [State.HostRegistersKept, State.framed]
  | nop | computed | addrcw | packAbsent | packExceeds | packFits | msgcwExceeds | msgcwFits | encodeAbsent =>
    exact ⟨rfl, rfl, rfl, rfl, rfl, rfl, rfl, rfl, rfl⟩

theorem Runs.pending_eq {s t : State} {i : Instr} (h : Runs s i t) : t.pending = s.pending := by
  obtain ⟨-, -, -, -, -, -, -, pending, -⟩ := h.hostRegistersKept
  exact pending

/-- `STICKY` after a command: set by an error, and otherwise as it was (R601). -/
theorem Runs.sticky_eq {s t : State} {i : Instr} (h : Runs s i t) : t.sticky = (s.sticky || decide (t.err ≠ .ok)) := by
  cases h with
  | packFits => simp [State.packed]
  | msgcwFits => simp [State.sliced]
  | encodeFits => simp [State.framed]
  | addrcw => simp [State.addressed]
  | nop | computed | packAbsent | packExceeds | msgcwExceeds | encodeAbsent | encodeExceeds => simp

end Sys2Proof.Machine
end

section
/-! PROOFS. The statements of 20_memory.md, 40_control.md and 70_reset_and_hazards.md about the bus and the step: which
accesses complete, what each of them leaves on the bus, and which of the block's results an access other than a write to
`CMD` keeps. -/

namespace Sys2Proof.Machine

/-! ### The next event (R16, R214) -/

theorem step_of_pending {s : State} {e : BusEvent} {rest : List BusEvent} (h : s.pending = e :: rest) :
    step s = serve e (s.accept rest) := by
  rw [step, busStep, h]

theorem step_of_idle {s : State} (h : s.pending = []) : step s = .next s := by
  rw [step, busStep, h]

theorem serve_cmd (v : Word) (s : State) : serve (.write 0x004 4 v) s = writeCmd Config.hasFrame v s := rfl

theorem serve_reset (s : State) : serve .reset s = .next s.resetBlock := rfl

/-- A read answers its data and does nothing else (R208). -/
theorem serveRead_eq_next {off n : Nat} {s t : State} (h : serveRead off n s = .next t) : ∃ v, t = s.respond v := by
  unfold serveRead at h
  split at h
  · cases h
    exact ⟨_, rfl⟩
  · cases h

/-- Settles O2: the reset event is served by `resetBlock`, which keeps the events behind it. -/
theorem platformResetGivesTheResetState : Obligations.PlatformResetGivesTheResetState := by
  unfold Obligations.PlatformResetGivesTheResetState
  intro s rest pending
  rw [step_of_pending pending, serve_reset]
  rfl

/-- Settles O3: a write to `CMD` is served by `writeCmd`, which runs what the word decodes to, and the word of a
well-formed command decodes to it. -/
theorem stepRunsTheDecodedCommand : Obligations.StepRunsTheDecodedCommand := by
  unfold Obligations.StepRunsTheDecodedCommand
  have runs (s : State) (v : Word) (i : Instr) (rest : List BusEvent) (pending : s.pending = .write 0x004 4 v :: rest)
      (decodes : decode v = .ok i) : step s = exec i (s.accept rest) := by
    rw [step_of_pending pending, serve_cmd, writeCmd_of_decodeWith_ok decodes]
  refine ⟨runs, fun s i wellFormed => ?_⟩
  have word : BitVec.ofNat 32 ((encode i).toNat % 2 ^ 32) = encode i := by
    rw [Nat.mod_eq_of_lt (encode i).isLt, BitVec.ofNat_toNat, BitVec.setWidth_eq]
  have pending : (s.withFetchWord 32 (encode i).toNat).pending = .write 0x004 4 (encode i) :: s.pending := by
    rw [State.withFetchWord, word, asmWr]
  exact runs _ (encode i) i s.pending pending (decode_encode wellFormed)

/-- Settles O7: the data of a read is all it answers. -/
theorem readsHaveNoSideEffect : Obligations.ReadsHaveNoSideEffect := by
  unfold Obligations.ReadsHaveNoSideEffect
  intro s off n rest t pending stepped
  rw [step_of_pending pending] at stepped
  obtain ⟨v, rfl⟩ := serveRead_eq_next stepped
  rfl

/-! ### Which accesses complete (R203, R210) -/

/-- The accesses R203 makes legal. -/
theorem legalAccess_iff {off n : Nat} :
    legalAccess off n = true ↔ (n = 4 ∧ off % 4 = 0 ∧ off < 0x200) ∨
      (n = 1 ∧ ((0x040 ≤ off ∧ off < 0x068) ∨ (0x080 ≤ off ∧ off < 0x0A4) ∨ (0x100 ≤ off ∧ off < 0x180))) := by
  simp [legalAccess, inByteWindow, inMsg, inOutBuf, and_assoc, or_assoc]
  rfl

theorem writeReg_pending (r : WordReg) (v : Word) (s : State) : (writeReg r v s).pending = s.pending := by
  cases r <;> rfl

theorem writeCmd_completes (hasFrame : Bool) (v : Word) (s : State) :
    ∃ t, writeCmd hasFrame v s = .next t ∧ t.pending = s.pending := by
  obtain ⟨i, -, out⟩ | ⟨-, -, out⟩ := writeCmd_cases hasFrame v s
  · obtain ⟨t, ran, runs⟩ := exec_runs i s
    exact ⟨t, out.trans ran, runs.pending_eq⟩
  · exact ⟨_, out, rfl⟩

/-- A legal event completes and leaves the events behind it on the bus; any other is a fault. -/
theorem serve_outcome (e : BusEvent) (s : State) :
    (e.legal = true ∧ ∃ t, serve e s = .next t ∧ t.pending = s.pending) ∨
      (e.legal = false ∧ ∃ r, serve e s = .fault r) := by
  obtain ⟨_, _, rfl, legal, _, out⟩ | ⟨v, rfl, out⟩ | ⟨r, v, -, rfl, out⟩ |
    ⟨_, _, _, rfl, legal, -, out | ⟨-, _, -, out⟩⟩ | ⟨rfl, out⟩ | ⟨_, _, _, isAccess, illegal, out⟩ := serve_cases e s
  · exact .inl ⟨legal, _, out, rfl⟩
  · exact .inl ⟨rfl, out ▸ writeCmd_completes _ v s⟩
  · exact .inl ⟨legalAccess_reg r, _, out, writeReg_pending r v s⟩
  · exact .inl ⟨legal, _, out, rfl⟩
  · exact .inl ⟨legal, _, out, rfl⟩
  · exact .inl ⟨rfl, _, out, rfl⟩
  · obtain rfl | ⟨_, rfl⟩ := isAccess
    · exact .inr ⟨illegal, _, out⟩
    · exact .inr ⟨illegal, _, out⟩

theorem serve_completes {e : BusEvent} (legal : e.legal = true) (s : State) :
    ∃ t, serve e s = .next t ∧ t.pending = s.pending := by
  obtain ⟨-, completes⟩ | ⟨illegal, -⟩ := serve_outcome e s
  · exact completes
  · simp [legal] at illegal

theorem serve_pending {e : BusEvent} {s t : State} (h : serve e s = .next t) : t.pending = s.pending := by
  obtain ⟨-, u, out, pending⟩ | ⟨-, r, out⟩ := serve_outcome e s
  · cases out.symm.trans h
    exact pending
  · cases out.symm.trans h

/-- Settles O6: R203's legality is `legalAccess`; a legal event completes, and an illegal access answers its fault. -/
theorem busErrorExactlyOnIllegalAccess : Obligations.BusErrorExactlyOnIllegalAccess := by
  unfold Obligations.BusErrorExactlyOnIllegalAccess
  intro s off n rest
  simp only [← legalAccess_iff, Bool.not_eq_true]
  have completes {e : BusEvent} (pending : s.pending = e :: rest) (legal : e.legal = true) : ∃ t, step s = .next t := by
    obtain ⟨t, out, -⟩ := serve_completes legal (s.accept rest)
    exact ⟨t, (step_of_pending pending).trans out⟩
  refine ⟨fun pending => ⟨completes pending, fun illegal => ?_⟩,
    fun v pending => ⟨completes pending, fun illegal => ?_⟩⟩
  · rw [step_of_pending pending]
    simp [serve, serveRead, illegal]
  · rw [step_of_pending pending]
    simp [serve, serveWrite, illegal]

/-- Settles O8: serving an event keeps the events behind it, and with none to come the step is the identity. -/
theorem eachStepTakesTheNextEvent : Obligations.EachStepTakesTheNextEvent := by
  unfold Obligations.EachStepTakesTheNextEvent
  refine ⟨fun s t stepped => ?_, fun s pending => step_of_idle pending⟩
  cases pending : s.pending with
  | nil =>
    cases (step_of_idle pending).symm.trans stepped
    exact pending
  | cons e rest =>
    rw [step_of_pending pending] at stepped
    exact serve_pending stepped

/-- Settles O9: the next event of a legal bus completes, and the events behind it are as legal as before. -/
theorem legalBusNeverFaults : Obligations.LegalBusNeverFaults := by
  unfold Obligations.LegalBusNeverFaults
  intro s legal
  cases pending : s.pending with
  | nil => exact ⟨s, step_of_idle pending, legal⟩
  | cons e rest =>
    rw [State.busLegal, pending, List.forall_mem_cons] at legal
    obtain ⟨first, behind⟩ := legal
    obtain ⟨t, out, kept⟩ := serve_completes first (s.accept rest)
    refine ⟨t, (step_of_pending pending).trans out, ?_⟩
    rw [State.busLegal, kept]
    exact behind

/-! ### Addresses and offsets (R200, R201) -/

/-- An address is its window and its offset in that window. -/
theorem toNat_eq_window_add_offset (addr : Word) :
    addr.toNat = (addr.extractLsb' 9 23).toNat * 0x200 + (addr.extractLsb' 0 9).toNat := by
  have bound := addr.isLt
  rw [BitVec.extractLsb'_toNat, BitVec.extractLsb'_toNat, Nat.shiftRight_eq_div_pow, Nat.shiftRight_eq_div_pow]
  omega

theorem toNat_append_nine_zeros (x : BitVec 23) : (x ++ 0#9).toNat = x.toNat * 0x200 := by
  rw [BitVec.toNat_append, BitVec.toNat_ofNat, Nat.zero_mod, Nat.or_zero, Nat.shiftLeft_eq]

theorem blockBase_toNat : Config.blockBase.toNat = Config.blockWindow.toNat * 0x200 :=
  toNat_append_nine_zeros Config.blockWindow

/-- Settles O10: the base is a multiple of 0x200, so the difference stays below 0x200 exactly in the base's window. -/
theorem offsetIsTheLowNineAddressBits : Obligations.OffsetIsTheLowNineAddressBits := by
  unfold Obligations.OffsetIsTheLowNineAddressBits
  intro addr
  have address := toNat_eq_window_add_offset addr
  have base := blockBase_toNat
  have lowBits := (addr.extractLsb' 0 9).isLt
  have addrWindow := (addr.extractLsb' 9 23).isLt
  have baseWindow := Config.blockWindow.isLt
  rw [hostOffset, BitVec.toNat_sub, ← BitVec.toNat_inj]
  omega

/-! ### What an access keeps of the results (R208, R731) -/

/-- What commands produce is in `t` what it is in `s`. -/
def State.ResultsKept (s t : State) : Prop :=
  t.result = s.result ∧ t.addrCw = s.addrCw ∧ t.packLen = s.packLen ∧ t.cwCount = s.cwCount ∧
    t.outLen = s.outLen ∧ t.err = s.err ∧ t.stage = s.stage ∧
    (∀ j, j < 35 → t.packBuf j = s.packBuf j) ∧ (∀ k, k < 12 → t.cwBuf k = s.cwBuf k) ∧
    ∀ j, j < 128 → t.outBuf j = s.outBuf j

theorem State.resultsKept_refl (s : State) : s.ResultsKept s :=
  ⟨rfl, rfl, rfl, rfl, rfl, rfl, rfl, fun _ _ => rfl, fun _ _ => rfl, fun _ _ => rfl⟩

theorem State.resultsKept_accept (s : State) (rest : List BusEvent) : s.ResultsKept (s.accept rest) :=
  s.resultsKept_refl

theorem State.resultsKept_respond (s : State) (v : Word) : s.ResultsKept (s.respond v) :=
  s.resultsKept_refl

/-- Writes to the registers only the host writes keep the results (R206, R207). -/
theorem resultsKept_writeReg (r : WordReg) (v : Word) (s : State) : s.ResultsKept (writeReg r v s) := by
  cases r with
  | ctrl | cmd | status | opa | result | msgLen | packCap | cwCap | outCap | packLen | cwCount | outLen | addrCw | sync
  | idle => exact s.resultsKept_refl

/-- A word of `CW_BUF` depends on the bytes of its window only. -/
theorem State.cwBuf_congr {s t : State} (same : ∀ x, 0x0C0 ≤ x → x < 0x0F0 → t.mem.read x = s.mem.read x) {k : Nat}
    (h : k < 12) : t.cwBuf k = s.cwBuf k := by
  simp only [State.cwBuf, Memory.readWord, Config.cwBase]
  rw [same _ (by omega) (by omega), same _ (by omega) (by omega), same _ (by omega) (by omega),
    same _ (by omega) (by omega)]

theorem State.resultsKept_store_msg (s : State) {off : Nat} {bs : List Byte} (h : off + bs.length ≤ 0x068) :
    s.ResultsKept (s.store off bs) := by
  have above (x : Nat) (hx : 0x068 ≤ x) : (s.store off bs).mem.read x = s.mem.read x :=
    Memory.read_store_outside (.inr (by omega))
  refine ⟨rfl, rfl, rfl, rfl, rfl, rfl, rfl, fun j _ => above _ ?_, fun k hk => State.cwBuf_congr ?_ hk,
    fun j _ => above _ ?_⟩
  · rw [Config.packBase]
    omega
  · exact fun x hx _ => above x (by omega)
  · rw [Config.outBase]
    omega

/-- A legal access that begins in `MSG` ends in `MSG` (R203). -/
theorem msg_access_inside {off n : Nat} (legal : legalAccess off n = true) (h : inMsg off = true) :
    0x040 ≤ off ∧ off + n ≤ 0x068 := by
  have word := legalAccess_iff.1 legal
  have msg := of_decide_eq_true h
  omega

/-- Every access but a write to `CMD` keeps the results. -/
theorem serve_resultsKept {e : BusEvent} {s t : State} (notReset : e ≠ .reset) (notCmd : ∀ v, e ≠ .write 0x004 4 v)
    (served : serve e s = .next t) : s.ResultsKept t := by
  have keeps {u : State} (out : serve e s = .next u) (kept : s.ResultsKept u) : s.ResultsKept t := by
    cases out.symm.trans served
    exact kept
  obtain ⟨_, _, -, -, v, out⟩ | ⟨v, isCmd, -⟩ | ⟨r, v, -, -, out⟩ |
    ⟨_, _, _, -, legal, -, out | ⟨inside, bs, len, out⟩⟩ | ⟨isReset, -⟩ | ⟨_, _, _, -, -, out⟩ := serve_cases e s
  · exact keeps out (s.resultsKept_respond v)
  · exact absurd isCmd (notCmd v)
  · exact keeps out (resultsKept_writeReg r v s)
  · exact keeps out s.resultsKept_refl
  · obtain ⟨-, last⟩ := msg_access_inside legal inside
    exact keeps out (s.resultsKept_store_msg (by rwa [len]))
  · exact absurd isReset notReset
  · cases out.symm.trans served

/-- Settles O17: taking the access off the bus keeps the results, and so does serving it. -/
theorem otherAccessesLeaveResultsStale : Obligations.OtherAccessesLeaveResultsStale := by
  unfold Obligations.OtherAccessesLeaveResultsStale
  intro s e rest t pending notReset notCmd stepped
  rw [step_of_pending pending] at stepped
  exact serve_resultsKept (s := s.accept rest) notReset notCmd stepped

/-! ### `STICKY` (R105, R603) -/

theorem writeCmd_sticky {hasFrame : Bool} {v : Word} {s t : State} (h : writeCmd hasFrame v s = .next t)
    (sticky : s.sticky = true) : t.sticky = true := by
  obtain ⟨i, -, out⟩ | ⟨-, -, out⟩ := writeCmd_cases hasFrame v s
  · rw [(runs_of_exec (out.symm.trans h)).sticky_eq, sticky, Bool.true_or]
  · cases out.symm.trans h
    rfl

/-- Of the registers' writes only that of `STATUS` with bit 8 set clears `STICKY`. -/
theorem writeReg_clears_sticky {r : WordReg} {v : Word} {s : State} (before : s.sticky = true)
    (after : (writeReg r v s).sticky = false) : r = .status ∧ v.getLsbD 8 = true := by
  cases r with
  | status =>
    refine ⟨rfl, ?_⟩
    by_contra bit8
    have kept : (writeReg .status v s).sticky = s.sticky := if_neg bit8
    simp [kept, before] at after
  | ctrl | cmd | opa | result | msgLen | packCap | cwCap | outCap | packLen | cwCount | outLen | addrCw | sync | idle =>
    exact absurd (before.symm.trans after) (by decide)

/-- Settles O51: commands and reads keep `STICKY` set, and of the writes only that of `STATUS` clears it. -/
theorem stickyIsClearedOnlyByHostOrReset : Obligations.StickyIsClearedOnlyByHostOrReset := by
  unfold Obligations.StickyIsClearedOnlyByHostOrReset
  intro s t stepped before after
  obtain ⟨-, idle⟩ | ⟨e, rest, pending, out⟩ := step_cases s
  · cases idle.symm.trans stepped
    simp [before] at after
  · refine ⟨e, rest, pending, ?_⟩
    have served : serve e (s.accept rest) = .next t := out.symm.trans stepped
    have kept {u : State} (is : serve e (s.accept rest) = .next u) (same : u.sticky = s.sticky) : False := by
      cases is.symm.trans served
      simp [same, before] at after
    obtain ⟨_, _, -, -, _, is⟩ | ⟨v, -, is⟩ | ⟨r, v, -, rfl, is⟩ | ⟨_, _, _, -, -, -, is | ⟨-, _, -, is⟩⟩ |
      ⟨isReset, -⟩ | ⟨_, _, _, -, -, is⟩ := serve_cases e (s.accept rest)
    · exact (kept is rfl).elim
    · have set := writeCmd_sticky (is.symm.trans served) before
      simp [set] at after
    · cases is.symm.trans served
      obtain ⟨rfl, bit8⟩ := writeReg_clears_sticky (s := s.accept rest) before after
      exact .inr ⟨v, rfl, bit8⟩
    · exact (kept is rfl).elim
    · exact (kept is rfl).elim
    · exact .inl isReset
    · cases is.symm.trans served

end Sys2Proof.Machine
end

section
/-! PROOFS. The statements of 20_memory.md about the buffer windows: a read of stored bytes returns them from the store,
and a write to `MSG` is one store at the access's offset. -/

namespace Sys2Proof.Machine

/-! ### Reads of stored bytes (R204, R206) -/

theorem isStored_iff {off : Nat} :
    isStored off = true ↔ (0x040 ≤ off ∧ off < 0x068) ∨ (0x080 ≤ off ∧ off < 0x0A3) ∨
      (0x0C0 ≤ off ∧ off < 0x0F0) ∨ (0x100 ≤ off ∧ off < 0x180) := by
  simp [isStored, inMsg, inPackBuf, inCwBuf, inOutBuf, or_assoc]

theorem inByteWindow_iff {off : Nat} :
    inByteWindow off = true ↔ (0x040 ≤ off ∧ off < 0x068) ∨ (0x080 ≤ off ∧ off < 0x0A4) ∨
      (0x100 ≤ off ∧ off < 0x180) := by
  simp [inByteWindow, inMsg, inOutBuf, or_assoc]

theorem readWindowByte_of_stored {off : Nat} (h : isStored off = true) (s : State) :
    readWindowByte off s = s.mem.read off := by
  rw [readWindowByte, if_pos h]

/-- A byte read in a byte window returns the stored byte. -/
theorem reads_byte_of_stored {off : Nat} (window : inByteWindow off = true) (stored : isStored off = true) (s : State) :
    reads 1 off s ((s.mem.read off).setWidth 32) :=
  (reads_byte_iff window).2 (by rw [readWindowByte_of_stored stored])

/-- A word read whose four bytes are stored returns them little-endian. -/
theorem reads_word_of_stored {off : Nat} (h4 : off % 4 = 0) (first : isStored off = true)
    (last : isStored (off + 3) = true) (s : State) : reads 4 off s (s.mem.readWord off) := by
  have first' := isStored_iff.1 first
  have last' := isStored_iff.1 last
  have stored (k : Nat) (hk : k ≤ 3) : readWindowByte (off + k) s = s.mem.read (off + k) :=
    readWindowByte_of_stored (isStored_iff.2 (by omega)) s
  refine (reads_word_iff h4 (by omega)).2 ?_
  rw [readWord, regAt_eq_none (by omega), readWindowByte_of_stored first, stored 1 (by decide), stored 2 (by decide),
    stored 3 (by decide), Memory.readWord]

/-- Settles O12: every offset named lies in a buffer, except 0x0A3, which is stored nowhere. -/
theorem bufferReadsAreLittleEndian : Obligations.BufferReadsAreLittleEndian := by
  unfold Obligations.BufferReadsAreLittleEndian
  intro s
  have byte (off : Nat) (h : (0x040 ≤ off ∧ off < 0x068) ∨ (0x080 ≤ off ∧ off < 0x0A3) ∨ (0x100 ≤ off ∧ off < 0x180)) :
      reads 1 off s ((s.mem.read off).setWidth 32) :=
    reads_byte_of_stored (inByteWindow_iff.2 (by omega)) (isStored_iff.2 (by omega)) s
  have word (off : Nat) (h4 : off % 4 = 0) (h : (0x040 ≤ off ∧ off < 0x068) ∨ (0x080 ≤ off ∧ off < 0x0A0) ∨
      (0x0C0 ≤ off ∧ off < 0x0F0) ∨ (0x100 ≤ off ∧ off < 0x180)) : reads 4 off s (s.mem.readWord off) :=
    reads_word_of_stored h4 (isStored_iff.2 (by omega)) (isStored_iff.2 (by omega)) s
  refine ⟨fun i _ => byte _ (by omega), fun j _ => byte _ (by omega), (reads_byte_iff (by decide)).2 rfl,
    fun j _ => byte _ (by omega), fun i _ => word _ (by omega) (by omega), fun j _ => word _ (by omega) (by omega),
    (reads_word_iff (by decide) (by decide)).2 rfl, fun k _ => word _ (by omega) (by omega),
    fun j _ => word _ (by omega) (by omega)⟩

/-! ### Writes to `MSG` (R204, R206) -/

theorem writes_msg_byte {off : Nat} (h : 0x040 ≤ off ∧ off < 0x068) (v : Word) (s : State) :
    writes 1 off v s (s.store off [v.extractLsb' 0 8]) := by
  have msg : inMsg off = true := decide_eq_true h
  have stored := writes_windowByte (inByteWindow_iff.2 (.inl h)) v s
  rwa [writeWindowByte, if_pos msg, BitVec.setWidth_eq_extractLsb' (by decide)] at stored

theorem writes_msg_word {off : Nat} (h4 : off % 4 = 0) (h : 0x040 ≤ off ∧ off < 0x068) (v : Word) (s : State) :
    writes 4 off v s (s.store off (bytesLE v)) := by
  have msg : inMsg off = true := decide_eq_true h
  have stored := writes_windowWord h4 (by omega) (by omega) v s
  rwa [writeWindowWord, if_pos msg] at stored

theorem State.read_store_bytesLE (s : State) (v : Word) (a : Nat) {k : Nat} (hk : k < 4) :
    (s.store a (bytesLE v)).mem.read (a + k) = (bytesLE v)[k] :=
  Memory.read_store_inside hk

/-- Settles O16: a write to `MSG` is one store, which is read back inside and leaves the bytes outside. -/
theorem messageWritesStoreTheirBytes : Obligations.MessageWritesStoreTheirBytes := by
  unfold Obligations.MessageWritesStoreTheirBytes
  refine fun s v => ⟨fun i hi => ⟨_, writes_msg_byte (by omega) v s, rfl, ?_, fun a ha => ?_⟩,
    fun i hi => ⟨_, writes_msg_word (by omega) (by omega) v s, rfl, ?_, ?_, ?_, ?_, fun a ha => ?_⟩⟩
  · exact Memory.read_store_inside (i := 0) (bs := [v.extractLsb' 0 8]) Nat.zero_lt_one
  · exact Memory.read_store_outside (by rw [List.length_singleton]; omega)
  · exact State.read_store_bytesLE s v _ (k := 0) (by decide)
  · exact State.read_store_bytesLE s v _ (k := 1) (by decide)
  · exact State.read_store_bytesLE s v _ (k := 2) (by decide)
  · exact State.read_store_bytesLE s v _ (k := 3) (by decide)
  · exact Memory.read_store_outside (by rw [bytesLE_length]; omega)

end Sys2Proof.Machine
end

section
/-! PROOFS. The statements of 42_bch_parity.md about the division. Bit vectors are read as polynomials over GF(2) by
their coefficients, so that XOR is addition and a shift is a power of x; the division loop subtracts multiples of the
generator, so its remainder is that of the polynomial division (R440, R441, R443, R457). -/

namespace Sys2Proof.Machine

open Polynomial

/-! ### Bit vectors as polynomials over GF(2) (R440) -/

theorem coeff_gf2Poly {n : Nat} (v : BitVec n) (k : Nat) : (gf2Poly v).coeff k = if v.getLsbD k then 1 else 0 := by
  have term (i : Nat) : (if v.getLsbD i then X ^ i else 0 : (ZMod 2)[X]).coeff k =
      if k = i then (if v.getLsbD k then 1 else 0) else 0 := by
    by_cases hi : k = i
    · subst hi
      cases v.getLsbD k <;> simp
    · cases v.getLsbD i <;> simp [coeff_X_pow, hi]
  simp only [gf2Poly, finsetSum_coeff, term, Finset.sum_ite_eq, Finset.mem_range]
  by_cases hk : k < n
  · rw [if_pos hk]
  · rw [if_neg hk, BitVec.getLsbD_of_ge v k (by omega)]
    rfl

/-- Vectors with the same bits are the same polynomial, whatever their widths. -/
theorem gf2Poly_congr {n m : Nat} {v : BitVec n} {w : BitVec m} (h : ∀ i, v.getLsbD i = w.getLsbD i) :
    gf2Poly v = gf2Poly w := by
  ext k
  rw [coeff_gf2Poly, coeff_gf2Poly, h k]

@[simp] theorem gf2Poly_zero (n : Nat) : gf2Poly (0 : BitVec n) = 0 := by
  ext k
  simp [coeff_gf2Poly]

theorem gf2Poly_eq_zero_iff {n : Nat} {v : BitVec n} : gf2Poly v = 0 ↔ v = 0 := by
  constructor
  · intro h
    refine BitVec.eq_of_getLsbD_eq fun i _ => ?_
    have coeff := congrArg (·.coeff i) h
    simpa [coeff_gf2Poly] using coeff
  · rintro rfl
    exact gf2Poly_zero n

theorem gf2Poly_xor {n : Nat} (v w : BitVec n) : gf2Poly (v ^^^ w) = gf2Poly v + gf2Poly w := by
  ext k
  rw [coeff_add, coeff_gf2Poly, coeff_gf2Poly, coeff_gf2Poly, BitVec.getLsbD_xor]
  cases v.getLsbD k <;> cases w.getLsbD k <;> decide

/-- A shift is a product with a power of x, `v` any vector that has the shifted bits. -/
theorem gf2Poly_eq_mul_X_pow {n m : Nat} {v : BitVec n} {w : BitVec m} (k : Nat)
    (h : ∀ i, w.getLsbD i = (decide (k ≤ i) && v.getLsbD (i - k))) : gf2Poly w = gf2Poly v * X ^ k := by
  ext i
  rw [coeff_mul_X_pow', coeff_gf2Poly, coeff_gf2Poly, h i]
  by_cases hk : k ≤ i <;> simp [hk]

theorem gf2Poly_append_zero {n : Nat} (v : BitVec n) (k : Nat) : gf2Poly (v ++ 0#k) = gf2Poly v * X ^ k :=
  gf2Poly_eq_mul_X_pow k fun i => by
    rw [BitVec.getLsbD_append]
    by_cases h : i < k
    · simp [h]
    · simp [h, not_lt.1 h]

/-! ### The generator (R440) -/

/-- The generator written out. -/
theorem gf2Poly_bchGen : gf2Poly Config.bchGen = X ^ 10 + X ^ 9 + X ^ 8 + X ^ 6 + X ^ 5 + X ^ 3 + 1 := by
  have bits : ∀ i, i < 11 → Config.bchGen.getLsbD i = decide (i ∈ [0, 3, 5, 6, 8, 9, 10]) := by decide
  rw [gf2Poly, Finset.sum_congr rfl fun i hi => by rw [bits i (Finset.mem_range.1 hi)]]
  simp [Finset.sum_range_succ]
  ring

theorem natDegree_gf2Poly_bchGen_le : (gf2Poly Config.bchGen).natDegree ≤ 10 :=
  natDegree_le_iff_coeff_eq_zero.2 fun i hi => by
    rw [coeff_gf2Poly, BitVec.getLsbD_of_ge _ i hi]
    rfl

theorem coeff_gf2Poly_bchGen_ten : (gf2Poly Config.bchGen).coeff 10 = 1 := by
  rw [coeff_gf2Poly]
  rfl

theorem gf2Poly_bchGen_monic : (gf2Poly Config.bchGen).Monic :=
  monic_of_natDegree_le_of_coeff_eq_one 10 natDegree_gf2Poly_bchGen_le coeff_gf2Poly_bchGen_ten

theorem degree_gf2Poly_bchGen : (gf2Poly Config.bchGen).degree = 10 :=
  degree_eq_of_le_of_coeff_ne_zero (degree_le_of_natDegree_le natDegree_gf2Poly_bchGen_le)
    (by rw [coeff_gf2Poly_bchGen_ten]; exact one_ne_zero)

/-- The generator at the bit a turn of the division clears. -/
theorem gf2Poly_bchGen_shiftLeft {n : Nat} (h : n ≤ 20) :
    gf2Poly (Config.bchGen.setWidth 31 <<< n : BitVec 31) = gf2Poly Config.bchGen * X ^ n :=
  gf2Poly_eq_mul_X_pow n fun i => by
    rw [BitVec.getLsbD_shiftLeft, BitVec.getLsbD_setWidth]
    by_cases hi : i - n < 11
    · by_cases hn : n ≤ i
      · simp [hn, show i < 31 by omega, show i - n < 31 by omega, show ¬ i < n by omega]
      · simp [hn, show i < n by omega]
    · simp [BitVec.getLsbD_of_ge Config.bchGen (i - n) (by omega)]

/-! ### The division loop is the polynomial division (R443, R457) -/

/-- The loop subtracts multiples of the generator. -/
theorem bchGen_dvd_sub_gf2Rem {n : Nat} (h : n ≤ 21) (v : BitVec 31) :
    gf2Poly Config.bchGen ∣ gf2Poly v - gf2Poly (gf2Rem n v) := by
  induction n generalizing v with
  | zero => simp [gf2Rem]
  | succ n ih =>
    rw [gf2Rem]
    split
    · have rest := ih (by omega) (v ^^^ (Config.bchGen.setWidth 31 <<< n))
      rw [gf2Poly_xor, gf2Poly_bchGen_shiftLeft (by omega), add_sub_right_comm] at rest
      exact (dvd_add_left (dvd_mul_right ..)).1 rest
    · exact ih (by omega) v

/-- The remainder has ten bits. -/
theorem degree_gf2Poly_gf2Rem_lt (v : BitVec 31) : (gf2Poly (gf2Rem 21 v)).degree < (gf2Poly Config.bchGen).degree := by
  rw [degree_gf2Poly_bchGen]
  refine (degree_lt_iff_coeff_zero _ 10).2 fun i hi => ?_
  rw [coeff_gf2Poly, gf2Rem_high 21 le_rfl v (fun j hj => BitVec.getLsbD_of_ge v j hj) i hi]
  rfl

theorem gf2Poly_gf2Rem (v : BitVec 31) : gf2Poly (gf2Rem 21 v) = gf2Poly v %ₘ gf2Poly Config.bchGen := by
  rw [modByMonic_eq_of_dvd_sub gf2Poly_bchGen_monic (bchGen_dvd_sub_gf2Rem le_rfl v)]
  exact ((modByMonic_eq_self_iff gf2Poly_bchGen_monic).2 (degree_gf2Poly_gf2Rem_lt v)).symm

/-- The check bits are the remainder of the data field times x^10. -/
theorem gf2Poly_checkBits (w : Word) :
    gf2Poly (checkBits w) = (gf2Poly (w.extractLsb' 11 21) * X ^ 10) %ₘ gf2Poly Config.bchGen := by
  have widened : gf2Poly (checkBits w) = gf2Poly ((checkBits w).setWidth 31) := gf2Poly_congr fun i => by
    rw [BitVec.getLsbD_setWidth]
    by_cases h : i < 31
    · simp [h]
    · rw [BitVec.getLsbD_of_ge _ i (by omega), Bool.and_false]
  rw [widened, ← dataFrame_remainder, gf2Poly_gf2Rem, dataFrame, gf2Poly_append_zero]

/-- Settles O34: `bch` ORs in its check bits, which are the remainder. -/
theorem bchIsPolynomialDivision : Obligations.BchIsPolynomialDivision := by
  unfold Obligations.BchIsPolynomialDivision
  exact ⟨gf2Poly_bchGen, fun w => ⟨checkBits w, bch_eq w, gf2Poly_checkBits w⟩⟩

theorem syndromeOk_iff_gf2Rem {w : Word} : syndromeOk w = true ↔ gf2Rem 21 (w.extractLsb' 1 31) = 0 := beq_iff_eq

/-- Settles O38: the remainder is zero exactly when the polynomial's is. -/
theorem syndromeCheckIsDivisibility : Obligations.SyndromeCheckIsDivisibility := by
  unfold Obligations.SyndromeCheckIsDivisibility
  intro w
  rw [syndromeOk_iff_gf2Rem, ← gf2Poly_eq_zero_iff, gf2Poly_gf2Rem, modByMonic_eq_zero_iff_dvd gf2Poly_bchGen_monic]

/-- Settles O35: the frame the source divides is the data field's, and its remainder the check bits. -/
theorem bchSourceFrameGivesTheSameWord : Obligations.BchSourceFrameGivesTheSameWord := by
  unfold Obligations.BchSourceFrameGivesTheSameWord
  intro w
  have frame : (w &&& 0xFFFFF800).extractLsb' 1 31 = dataFrame w := by
    rw [mask_eq_dataFrame]
    exact BitVec.extractLsb'_append_eq_left
  have widened : ((checkBits w).setWidth 31).setWidth 32 = (checkBits w).setWidth 32 := by simp
  rw [bchSourceFrame, frame, dataFrame_remainder, widened, bch_eq]

end Sys2Proof.Machine
end

section
/-! PROOFS. The statements of 42_bch_parity.md about the bits of a codeword: the laws of `bch` (R444) and of `par`
(R452), and what the two make of a word with zero low bits (R455, R457). -/

namespace Sys2Proof.Machine

/-! ### The bits of `bch` (R441) -/

/-- `bch` ORs its check bits into bits 10..1 and keeps every other bit. -/
theorem getLsbD_bch (w : Word) (i : Nat) :
    (bch w).getLsbD i = (w.getLsbD i || (decide (1 ≤ i) && (checkBits w).getLsbD (i - 1))) := by
  rw [bch_eq, BitVec.getLsbD_or, BitVec.getLsbD_shiftLeft, BitVec.getLsbD_setWidth]
  by_cases h : i < 11
  · by_cases h1 : i < 1
    · simp [h1]
    · simp [h1, show 1 ≤ i by omega, show i < 32 by omega, show i - 1 < 32 by omega]
  · simp [BitVec.getLsbD_of_ge (checkBits w) (i - 1) (by omega)]

theorem getLsbD_bch_of_ge (w : Word) {i : Nat} (h : 11 ≤ i) : (bch w).getLsbD i = w.getLsbD i := by
  rw [getLsbD_bch, BitVec.getLsbD_of_ge (checkBits w) (i - 1) (by omega), Bool.and_false, Bool.or_false]

theorem getLsbD_bch_zero (w : Word) : (bch w).getLsbD 0 = w.getLsbD 0 := by
  rw [getLsbD_bch, decide_eq_false (by decide), Bool.false_and, Bool.or_false]

/-- The data field is kept (R444). -/
theorem dataField_bch (w : Word) : (bch w).extractLsb' 11 21 = w.extractLsb' 11 21 := by
  refine BitVec.eq_of_getLsbD_eq fun i hi => ?_
  rw [BitVec.getLsbD_extractLsb', BitVec.getLsbD_extractLsb', getLsbD_bch_of_ge w (by omega)]

/-- The check bits depend on the data field only (R444). -/
theorem checkBits_congr {w v : Word} (h : w.extractLsb' 11 21 = v.extractLsb' 11 21) : checkBits w = checkBits v := by
  rw [checkBits, dataFrame, h, ← dataFrame, ← checkBits]

theorem bch_bch (w : Word) : bch (bch w) = bch w := by
  rw [bch_eq (bch w), checkBits_congr (dataField_bch w), bch_eq w, BitVec.or_assoc, BitVec.or_self]

/-! ### Linearity (R444) -/

theorem checkBits_xor (w v : Word) : checkBits (w ^^^ v) = checkBits w ^^^ checkBits v := by
  have frame : dataFrame (w ^^^ v) = dataFrame w ^^^ dataFrame v := by
    refine BitVec.eq_of_getLsbD_eq fun i _ => ?_
    simp only [dataFrame, BitVec.getLsbD_append, BitVec.getLsbD_xor, BitVec.getLsbD_extractLsb', BitVec.getLsbD_zero]
    split
    · rfl
    · cases decide (i - 10 < 21) <;> simp
  rw [checkBits, frame, gf2Rem_xor, BitVec.setWidth_xor, ← checkBits, ← checkBits]

/-- A field of zeros has no bit set. -/
theorem getLsbD_of_extractLsb'_eq_zero {w : Word} {lo len : Nat} (h : w.extractLsb' lo len = 0) {i : Nat} (hlo : lo ≤ i)
    (hi : i < lo + len) : w.getLsbD i = false := by
  have bit : (w.extractLsb' lo len).getLsbD (i - lo) = false := by
    rw [h]
    exact BitVec.getLsbD_zero
  rw [BitVec.getLsbD_extractLsb', Nat.add_sub_cancel' hlo] at bit
  simpa [show i - lo < len by omega] using bit

/-- Bit `i` of `bch` when the check bits are zero on entry. -/
theorem getLsbD_bch_check {w : Word} (h : w.extractLsb' 1 10 = 0) {i : Nat} (h1 : 1 ≤ i) (h11 : i < 11) :
    (bch w).getLsbD i = (checkBits w).getLsbD (i - 1) := by
  rw [getLsbD_bch, getLsbD_of_extractLsb'_eq_zero h h1 (by omega)]
  simp [h1]

/-- Words with zero low bits have zero check bits. -/
theorem checkField_of_low {w : Word} (h : w.extractLsb' 0 11 = 0) : w.extractLsb' 1 10 = 0 := by
  refine BitVec.eq_of_getLsbD_eq fun i hi => ?_
  rw [BitVec.getLsbD_extractLsb', getLsbD_of_extractLsb'_eq_zero h (by omega) (by omega), Bool.and_false]
  exact BitVec.getLsbD_zero.symm

theorem getLsbD_zero_of_low {w : Word} (h : w.extractLsb' 0 11 = 0) : w.getLsbD 0 = false :=
  getLsbD_of_extractLsb'_eq_zero h le_rfl (by decide)

theorem bch_xor {w v : Word} (hw : w.extractLsb' 0 11 = 0) (hv : v.extractLsb' 0 11 = 0) :
    bch (w ^^^ v) = bch w ^^^ bch v := by
  refine BitVec.eq_of_getLsbD_eq fun i _ => ?_
  simp only [BitVec.getLsbD_xor, getLsbD_bch, checkBits_xor]
  by_cases h : i < 11
  · simp [getLsbD_of_extractLsb'_eq_zero hw (Nat.zero_le i) (by omega),
      getLsbD_of_extractLsb'_eq_zero hv (Nat.zero_le i) (by omega), Bool.and_xor_distrib_left]
  · simp [BitVec.getLsbD_of_ge _ (i - 1) (show 10 ≤ i - 1 by omega)]

/-! ### The syndrome of an encoded word (R444, R457) -/

/-- Bits 31..1 of `bch` of a word with zero check bits: the data field's frame and its remainder. -/
theorem frame_bch {w : Word} (h : w.extractLsb' 1 10 = 0) :
    (bch w).extractLsb' 1 31 = dataFrame w ^^^ (checkBits w).setWidth 31 := by
  refine BitVec.eq_of_getLsbD_eq fun i hi => ?_
  rw [BitVec.getLsbD_extractLsb', BitVec.getLsbD_xor, dataFrame, BitVec.getLsbD_append, BitVec.getLsbD_setWidth]
  by_cases h10 : i < 10
  · simp [getLsbD_bch_check h (show 1 ≤ 1 + i by omega) (by omega), h10, hi]
  · have data : 11 + (i - 10) = 1 + i := by omega
    simp [getLsbD_bch_of_ge w (show 11 ≤ 1 + i by omega), BitVec.getLsbD_of_ge (checkBits w) i (by omega), h10, hi,
      data, show i - 10 < 21 by omega]

/-- The remainder of the frame is the check bits, and they cancel. -/
theorem syndromeOk_bch {w : Word} (h : w.extractLsb' 1 10 = 0) : syndromeOk (bch w) = true := by
  rw [syndromeOk_iff_gf2Rem, frame_bch h, gf2Rem_xor, dataFrame_remainder, gf2Rem_low, BitVec.xor_self]
  · rfl
  · intro i hi
    rw [BitVec.getLsbD_setWidth, BitVec.getLsbD_of_ge _ i hi, Bool.and_false]

/-- Settles O36: the check bits are a function of the data field; data field and bit 0 stay; the second run ORs in the
same check bits; the remainder is linear; and it cancels the frame's. -/
theorem bchLaws : Obligations.BchLaws := by
  unfold Obligations.BchLaws
  exact ⟨⟨fun d => (gf2Rem 21 (d ++ 0#10)).setWidth 10, bch_eq⟩, fun w => ⟨dataField_bch w, getLsbD_bch_zero w⟩,
    bch_bch, fun _ _ => bch_xor, fun w h => (syndromeCheckIsDivisibility (bch w)).1 (syndromeOk_bch h)⟩

/-! ### The laws of `par` (R452) -/

theorem parityOdd_congr (span : Config.ParitySpan) {w v : Word} (h : ∀ i, 1 ≤ i → w.getLsbD i = v.getLsbD i) :
    parityOdd span w = parityOdd span v := by
  have bits (i : Nat) : w.getLsbD (1 + i) = v.getLsbD (1 + i) := h (1 + i) (by omega)
  simp only [parityOdd_eq, bits]

theorem parityOdd_par (span : Config.ParitySpan) (w : Word) : parityOdd span (par span w) = parityOdd span w :=
  parityOdd_congr span fun _ hi => getLsbD_par_of_pos span w hi

theorem par_par (span : Config.ParitySpan) (w : Word) : par span (par span w) = par span w := by
  rw [par, parityOdd_par, par, BitVec.or_assoc, BitVec.or_self]

/-- `par` touches bit 0 only, so bits 31..1 stay (R452). -/
theorem frame_par (span : Config.ParitySpan) (w : Word) : (par span w).extractLsb' 1 31 = w.extractLsb' 1 31 := by
  refine BitVec.eq_of_getLsbD_eq fun i _ => ?_
  rw [BitVec.getLsbD_extractLsb', BitVec.getLsbD_extractLsb', getLsbD_par_of_pos span w (by omega)]

/-- Counting the first `n + 1` bits is bit 0 and then the `n` from bit 1 on. -/
theorem countP_range_succ (f : Nat → Bool) (n : Nat) :
    (List.range (n + 1)).countP f = (f 0).toNat + (List.range n).countP fun i => f (1 + i) := by
  rw [List.range_succ_eq_map, List.countP_cons, List.countP_map, Nat.add_comm]
  congr 1
  · cases f 0 <;> rfl
  · exact List.countP_congr fun i _ => by rw [Function.comp, Nat.succ_eq_add_one, Nat.add_comm]

/-- A bit and a count sum to an even number exactly when the bit is the count's parity. -/
theorem even_toNat_add_iff (b : Bool) (n : Nat) : (b.toNat + n) % 2 = 0 ↔ decide (n % 2 = 1) = b := by
  cases b with
  | false => simp
  | true => simp; omega

/-- The parity check holds exactly when bit 0 is the parity of the span (R450, R457). -/
theorem parityOk_iff {span : Config.ParitySpan} {w : Word} :
    parityOk span w = true ↔ parityOdd span w = w.getLsbD 0 := by
  rw [parityOdd_eq, ← even_toNat_add_iff, ← countP_range_succ]
  cases span with
  | b30_1 =>
    rw [parityOk, popcount_extractLsb', beq_iff_eq]
    simp only [Nat.zero_add, spanLen]
  | b31_1 => rw [parityOk, beq_iff_eq]; rfl

theorem parityOk_par (span : Config.ParitySpan) {w : Word} (h : w.getLsbD 0 = false) :
    parityOk span (par span w) = true := by
  rw [parityOk_iff, parityOdd_par, getLsbD_par_zero, h, Bool.false_or]

/-- Settles O37: `par` writes bit 0 only, and there the parity of bits it does not touch. -/
theorem parityLaws : Obligations.ParityLaws := by
  unfold Obligations.ParityLaws
  refine fun span w => ⟨frame_par span w, par_par span w, fun clear narrow => ?_, fun clear wide => ?_⟩
  · subst narrow
    exact beq_iff_eq.1 (parityOk_par .b30_1 clear)
  · subst wide
    exact beq_iff_eq.1 (parityOk_par .b31_1 clear)

/-! ### Sealed words (R455, R457) -/

/-- The two checks of R457 at either span; `goodCodeword` is this at the span of the hardware. -/
theorem checks_sealWord (span : Config.ParitySpan) {w : Word} (h : w.extractLsb' 0 11 = 0) :
    syndromeOk (sealWord span w) = true ∧ parityOk span (sealWord span w) = true := by
  refine ⟨?_, parityOk_par span ?_⟩
  · rw [syndromeOk_iff_gf2Rem, sealWord, frame_par, ← syndromeOk_iff_gf2Rem]
    exact syndromeOk_bch (checkField_of_low h)
  · rw [getLsbD_bch_zero, getLsbD_zero_of_low h]

theorem goodCodeword_sealWord {w : Word} (h : w.extractLsb' 0 11 = 0) : goodCodeword (sealWord .b30_1 w) :=
  checks_sealWord .b30_1 h

theorem checks_syncCw (span : Config.ParitySpan) :
    syndromeOk Config.syncCw = true ∧ parityOk span Config.syncCw = true := by
  cases span <;> decide +kernel

theorem checks_idleCw (span : Config.ParitySpan) :
    syndromeOk Config.idleCw = true ∧ parityOk span Config.idleCw = true := by
  cases span <;> decide +kernel

/-- Settles O39: a sealed word's check bits cancel its frame and its bit 0 is the parity; the constants are checked by
computation. -/
theorem sealedWordsPassBothChecks : Obligations.SealedWordsPassBothChecks := by
  unfold Obligations.SealedWordsPassBothChecks
  refine ⟨fun span w => checks_sealWord span, fun span => ?_⟩
  obtain ⟨syncSyndrome, syncParity⟩ := checks_syncCw span
  obtain ⟨idleSyndrome, idleParity⟩ := checks_idleCw span
  exact ⟨syncSyndrome, syncParity, idleSyndrome, idleParity⟩

/-- From bit 11 on a sealed word is the word. -/
theorem getLsbD_sealWord_of_ge (span : Config.ParitySpan) (w : Word) {i : Nat} (h : 11 ≤ i) :
    (sealWord span w).getLsbD i = w.getLsbD i := by
  rw [sealWord, getLsbD_par_of_pos span _ (by omega), getLsbD_bch_of_ge w h]

theorem dataField_sealWord (span : Config.ParitySpan) (w : Word) :
    (sealWord span w).extractLsb' 11 21 = w.extractLsb' 11 21 := by
  refine BitVec.eq_of_getLsbD_eq fun i _ => ?_
  rw [BitVec.getLsbD_extractLsb', BitVec.getLsbD_extractLsb', getLsbD_sealWord_of_ge span w (by omega)]

/-- A word is its data field, its check field and bit 0. -/
theorem codeword_fields_append (w : Word) :
    w.extractLsb' 11 21 ++ w.extractLsb' 1 10 ++ BitVec.ofBool (w.getLsbD 0) = w := by
  have frame : w.extractLsb' 11 21 ++ w.extractLsb' 1 10 = w.extractLsb' 1 31 :=
    BitVec.extractLsb'_append_extractLsb'_eq_extractLsb' rfl
  have low : BitVec.ofBool (w.getLsbD 0) = w.extractLsb' 0 1 := by
    ext i hi
    simp [show i = 0 by omega]
  rw [frame, low]
  exact BitVec.extractLsb'_append_extractLsb' (w := 31) (len := 1)

theorem checkField_bch {w : Word} (h : w.extractLsb' 1 10 = 0) : (bch w).extractLsb' 1 10 = checkBits w := by
  refine BitVec.eq_of_getLsbD_eq fun i hi => ?_
  rw [BitVec.getLsbD_extractLsb', getLsbD_bch_check h (by omega) (by omega), Nat.add_sub_cancel_left, decide_eq_true hi,
    Bool.true_and]

/-- `bch` of a word with zero low bits: data field, check bits, a zero. -/
theorem bch_eq_append {w : Word} (h : w.extractLsb' 0 11 = 0) :
    bch w = w.extractLsb' 11 21 ++ (bch w).extractLsb' 1 10 ++ 0#1 := by
  have bit0 : (bch w).getLsbD 0 = false := by
    rw [getLsbD_bch_zero, getLsbD_zero_of_low h]
  conv_lhs => rw [← codeword_fields_append (bch w), dataField_bch, bit0]
  rfl

/-- Sealing puts the parity of data field and check bits below them. -/
theorem sealWord_eq_append (span : Config.ParitySpan) {w : Word} (h : w.extractLsb' 0 11 = 0) :
    sealWord span w = w.extractLsb' 11 21 ++ (bch w).extractLsb' 1 10 ++ BitVec.ofBool (parityOdd span (bch w)) := by
  have check : (sealWord span w).extractLsb' 1 10 = (bch w).extractLsb' 1 10 := by
    refine BitVec.eq_of_getLsbD_eq fun i _ => ?_
    rw [BitVec.getLsbD_extractLsb', BitVec.getLsbD_extractLsb', sealWord, getLsbD_par_of_pos span _ (by omega)]
  have bit0 : (sealWord span w).getLsbD 0 = parityOdd span (bch w) := by
    rw [sealWord, getLsbD_par_zero, getLsbD_bch_zero, getLsbD_zero_of_low h, Bool.false_or]
  conv_lhs => rw [← codeword_fields_append (sealWord span w), dataField_sealWord, check, bit0]

/-- Settles O40: `bch` and `seal` field by field. -/
theorem sealDependsOnTheDataFieldOnly : Obligations.SealDependsOnTheDataFieldOnly := by
  unfold Obligations.SealDependsOnTheDataFieldOnly
  intro span w h
  refine ⟨?_, bch_eq_append h, ?_⟩
  · rw [checkField_bch (checkField_of_low h), gf2Poly_checkBits]
  · rw [← bch_eq_append h, sealWord_eq_append span h]

end Sys2Proof.Machine
end

section
/-! PROOFS. The statements of 43_address_codeword.md about the codeword: the field is 19 address bits over the function
code over eleven zeros (R480), and sealing keeps it (R481, R483). -/

namespace Sys2Proof.Machine

/-- The address field, part by part (R306, R480). -/
theorem addrField_eq_append (a : Word) : addrField a = a.extractLsb' 3 19 ++ 0b11#2 ++ 0#11 := by
  have mask : ∀ i, i < 32 → (0x7FFFF : Word).getLsbD i = decide (i < 19) := by decide
  have code : ∀ i, i < 32 → (0b11 : Word).getLsbD i = decide (i < 2) := by decide
  have code' : ∀ i, i < 2 → (0b11#2).getLsbD i = true := by decide
  refine BitVec.eq_of_getLsbD_eq fun i hi => ?_
  rw [addrField_eq, BitVec.getLsbD_append, BitVec.getLsbD_append, BitVec.getLsbD_shiftLeft, BitVec.getLsbD_or,
    BitVec.getLsbD_shiftLeft, BitVec.getLsbD_and, code _ (by omega), mask _ (by omega)]
  by_cases h11 : i < 11
  · simp [h11]
  · by_cases h13 : i - 11 < 2
    · rw [if_neg h11, if_pos h13, code' _ h13]
      simp [h11, h13, hi]
    · simp [h11, h13, hi, show i - 11 < 32 by omega, Bool.and_comm]

theorem low_addrField (a : Word) : (addrField a).extractLsb' 0 11 = 0 := by
  rw [addrField_eq_append]
  exact BitVec.extractLsb'_append_eq_right

theorem dataField_addrField (a : Word) : (addrField a).extractLsb' 11 21 = a.extractLsb' 3 19 ++ 0b11#2 := by
  rw [addrField_eq_append]
  exact BitVec.extractLsb'_append_eq_left

/-- The data field of an address codeword is the address bits over the function code. -/
theorem dataField_addrCodeword (span : Config.ParitySpan) (a : Word) :
    (addrCodeword span a).extractLsb' 11 21 = a.extractLsb' 3 19 ++ 0b11#2 := by
  rw [addrCodeword, dataField_sealWord, dataField_addrField]

/-- A field of a field is a field of the word. -/
theorem extractLsb'_of_field (w : Word) {lo len lo' len' : Nat} (h : lo' + len' ≤ len) :
    (w.extractLsb' lo len).extractLsb' lo' len' = w.extractLsb' (lo + lo') len' := by
  refine BitVec.eq_of_getLsbD_eq fun i hi => ?_
  simp only [BitVec.getLsbD_extractLsb', decide_eq_true hi, decide_eq_true (show lo' + i < len by omega), Bool.true_and,
    Nat.add_assoc]

theorem addressBits_addrCodeword (span : Config.ParitySpan) (a : Word) :
    (addrCodeword span a).extractLsb' 13 19 = a.extractLsb' 3 19 := by
  have field : ((addrCodeword span a).extractLsb' 11 21).extractLsb' 2 19 = a.extractLsb' 3 19 := by
    rw [dataField_addrCodeword]
    exact BitVec.extractLsb'_append_eq_left
  exact (extractLsb'_of_field _ (by decide)).symm.trans field

theorem functionCode_addrCodeword (span : Config.ParitySpan) (a : Word) :
    (addrCodeword span a).extractLsb' 11 2 = 0b11 := by
  have field : ((addrCodeword span a).extractLsb' 11 21).extractLsb' 0 2 = 0b11#2 := by
    rw [dataField_addrCodeword]
    exact BitVec.extractLsb'_append_eq_right
  exact (extractLsb'_of_field _ (by decide)).symm.trans field

theorem goodCodeword_addrCodeword (a : Word) : goodCodeword (addrCodeword .b30_1 a) :=
  goodCodeword_sealWord (low_addrField a)

/-- Settles O41: sealing keeps the address field and passes both checks. -/
theorem addressCodewordFields : Obligations.AddressCodewordFields := by
  unfold Obligations.AddressCodewordFields
  intro span a
  refine ⟨fun i hi => ?_, functionCode_addrCodeword span a, checks_sealWord span (low_addrField a)⟩
  have bit := congrArg (·.getLsbD i) (addressBits_addrCodeword span a)
  simpa only [BitVec.getLsbD_extractLsb', decide_eq_true hi, Bool.true_and] using bit

/-- Settles O42: the address bits can be read back from the codeword, and they determine it. -/
theorem addressCodewordDropsFrameAndHighBits : Obligations.AddressCodewordDropsFrameAndHighBits := by
  unfold Obligations.AddressCodewordDropsFrameAndHighBits
  intro span a b
  constructor
  · intro same
    rw [← addressBits_addrCodeword span a, same, addressBits_addrCodeword]
  · intro same
    rw [addrCodeword, addrField_eq_append, same, ← addrField_eq_append, addrCodeword]

end Sys2Proof.Machine
end

section
/-! PROOFS. The statements of 41_bitrev.md and 44_packer.md about the functions. Bit reversal is read off its bits
(R420). One turn of the packing loop ORs the seven bits of a character into the stream (R503), so the turns together
leave the characters' bits in the stream one after another (R504), from which they can be read back (R507). -/

namespace Sys2Proof.Machine

/-! ### Bit reversal (R422) -/

theorem rev8_rev8 (b : Byte) : rev8 (rev8 b) = b := by
  refine BitVec.eq_of_getLsbD_eq fun i hi => ?_
  rw [getLsbD_rev8, getLsbD_rev8, Nat.sub_sub_self (by omega), decide_eq_true hi, decide_eq_true (by omega)]
  rfl

theorem rev8_xor (a b : Byte) : rev8 (a ^^^ b) = rev8 a ^^^ rev8 b := by
  refine BitVec.eq_of_getLsbD_eq fun i _ => ?_
  rw [BitVec.getLsbD_xor, getLsbD_rev8, getLsbD_rev8, getLsbD_rev8, BitVec.getLsbD_xor, Bool.and_xor_distrib_left]

/-- Counting the mirrored bits is counting the bits in the other order. -/
theorem popcount_rev8 (b : Byte) : popcount (rev8 b) = popcount b := by
  have mirror : (List.range 8).map (7 - ·) = (List.range 8).reverse := by decide
  calc
    popcount (rev8 b) = (List.range 8).countP (b.getLsbD ∘ (7 - ·)) := List.countP_congr fun i hi => by
      rw [getLsbD_rev8, decide_eq_true (List.mem_range.1 hi), Bool.true_and, Function.comp]
    _ = (List.range 8).countP b.getLsbD := by rw [← List.countP_map, mirror, List.countP_reverse]

/-- Settles O33: the reversal is its own inverse, which makes it a bijection, and moves bits without changing them. -/
theorem bitReversalLaws : Obligations.BitReversalLaws := by
  unfold Obligations.BitReversalLaws
  exact ⟨rev8_rev8, Function.Involutive.bijective rev8_rev8, popcount_rev8, rev8_xor⟩

/-! ### One turn of the packing loop (R503) -/

/-- The byte of a character's group: its seven bits, the character's bit 0 at the top, over a zero (R503). -/
def groupByte (c : Byte) : Byte := (s7 c).setWidth 8 <<< 1

theorem getLsbD_groupByte (c : Byte) {m : Nat} (h : m < 8) :
    (groupByte c).getLsbD m = (decide (1 ≤ m) && c.getLsbD (7 - m)) := by
  rw [groupByte, BitVec.getLsbD_shiftLeft, BitVec.getLsbD_setWidth]
  by_cases h1 : m < 1
  · simp [h1]
  · rw [getLsbD_s7 c (m - 1) (by omega), show 6 - (m - 1) = 7 - m by omega]
    simp [h, h1, show m - 1 < 8 by omega, show 1 ≤ m by omega]

/-- The bits of character `i` that land in the byte its group begins in, `7i mod 8` bits from the top. -/
theorem groupByte_head_bit (c : Byte) (i n : Nat) :
    (decide (n / 8 = 7 * i / 8) && (groupByte c >>> (7 * i % 8)).getLsbD (7 - n % 8)) =
      (decide (n / 8 = 7 * i / 8 ∧ 7 * i ≤ n ∧ n < 7 * i + 7) && c.getLsbD (n - 7 * i)) := by
  by_cases here : n / 8 = 7 * i / 8
  · rw [BitVec.getLsbD_ushiftRight]
    by_cases above : 7 * i ≤ n
    · rw [getLsbD_groupByte c (by omega), show 7 - (7 * i % 8 + (7 - n % 8)) = n - 7 * i by omega, ← Bool.and_assoc,
        ← Bool.decide_and]
      congr 1
      exact decide_eq_decide.2 (by omega)
    · rw [BitVec.getLsbD_of_ge _ _ (by omega)]
      simp [above]
  · simp [here]

/-- The bits that spill into the next byte. -/
theorem groupByte_spill_bit (c : Byte) (i n : Nat) :
    (decide (n / 8 = 7 * i / 8 + 1) && (groupByte c <<< (8 - 7 * i % 8)).getLsbD (7 - n % 8)) =
      (decide (n / 8 = 7 * i / 8 + 1 ∧ 7 * i ≤ n ∧ n < 7 * i + 7) && c.getLsbD (n - 7 * i)) := by
  by_cases here : n / 8 = 7 * i / 8 + 1
  · rw [BitVec.getLsbD_shiftLeft]
    by_cases below : n < 7 * i + 7
    · rw [getLsbD_groupByte c (by omega), show 7 - (7 - n % 8 - (8 - 7 * i % 8)) = n - 7 * i by omega]
      simp [here, below, show 7 - n % 8 < 8 by omega, show ¬ 7 - n % 8 < 8 - 7 * i % 8 by omega,
        show 1 ≤ 7 - n % 8 - (8 - 7 * i % 8) by omega, show 7 * i ≤ n by omega]
    · by_cases clear : 7 - n % 8 < 8 - 7 * i % 8
      · simp [below, clear]
      · rw [getLsbD_groupByte c (by omega)]
        simp [below, show ¬ 1 ≤ 7 - n % 8 - (8 - 7 * i % 8) by omega]
  · simp [here]

theorem streamBit_orInto {pb : List Byte} {n : Nat} (h : n / 8 < pb.length) (j : Nat) (b : Byte) :
    streamBit (orInto pb j b) n = (streamBit pb n || (decide (n / 8 = j) && b.getLsbD (7 - n % 8))) := by
  rw [streamBit, streamBit, orInto, List.getD_eq_getElem _ _ (by rwa [List.length_modify]), List.getElem_modify,
    List.getD_eq_getElem _ _ h]
  by_cases hj : n / 8 = j
  · rw [if_pos hj.symm, BitVec.getLsbD_or, decide_eq_true hj, Bool.true_and]
  · rw [if_neg (Ne.symm hj), decide_eq_false hj, Bool.false_and, Bool.or_false]

/-- Turn `i` ORs character `i` into stream bits `7i` to `7i + 6`. -/
theorem streamBit_packChar (msg : List Byte) {pb : List Byte} (i : Nat) {n : Nat} (h : n / 8 < pb.length) :
    streamBit (packChar msg pb i) n =
      (streamBit pb n || (decide (7 * i ≤ n ∧ n < 7 * i + 7) && (msg.getD i 0).getLsbD (n - 7 * i))) := by
  have turn : packChar msg pb i = if 7 * i % 8 ≥ 2
      then orInto (orInto pb (7 * i / 8) (groupByte (msg.getD i 0) >>> (7 * i % 8))) (7 * i / 8 + 1)
        (groupByte (msg.getD i 0) <<< (8 - 7 * i % 8))
      else orInto pb (7 * i / 8) (groupByte (msg.getD i 0) >>> (7 * i % 8)) := rfl
  rw [turn]
  split
  · rw [streamBit_orInto (by rwa [orInto_length]), streamBit_orInto h, Bool.or_assoc, groupByte_head_bit,
      groupByte_spill_bit, ← Bool.and_or_distrib_right, ← Bool.decide_or]
    congr 2
    exact decide_eq_decide.2 (by omega)
  · rw [streamBit_orInto h, groupByte_head_bit]
    congr 2
    exact decide_eq_decide.2 (by omega)

/-! ### The whole loop (R504, R507) -/

/-- The buffer after `l` turns of the packing loop. -/
def packedPrefix (msg : List Byte) (l : Nat) : List Byte :=
  (List.range l).foldl (packChar msg) (List.replicate 35 0)

theorem packedBuf_eq_packedPrefix (msg : List Byte) (len : Nat) :
    packedBuf msg len = packedPrefix msg (min len 40) := rfl

theorem packedPrefix_succ (msg : List Byte) (l : Nat) :
    packedPrefix msg (l + 1) = packChar msg (packedPrefix msg l) l := by
  rw [packedPrefix, List.range_succ, List.foldl_concat, packedPrefix]

theorem packedPrefix_length (msg : List Byte) (l : Nat) : (packedPrefix msg l).length = 35 := by
  induction l with
  | zero => rfl
  | succ l ih => rw [packedPrefix_succ, packChar_length, ih]

theorem streamBit_packedPrefix (msg : List Byte) (l : Nat) {n : Nat} (h : n < 280) :
    streamBit (packedPrefix msg l) n = if n < 7 * l then (msg.getD (n / 7) 0).getLsbD (n % 7) else false := by
  induction l with
  | zero =>
    have zero : (packedPrefix msg 0).getD (n / 8) 0 = 0 := List.getD_replicate _ (by omega)
    rw [streamBit, zero, if_neg (by omega)]
    exact BitVec.getLsbD_zero
  | succ l ih =>
    rw [packedPrefix_succ, streamBit_packChar msg l (by rw [packedPrefix_length]; omega), ih]
    by_cases before : n < 7 * l
    · simp [before, show ¬ 7 * l ≤ n by omega, show n < 7 * (l + 1) by omega]
    · by_cases here : n < 7 * (l + 1)
      · have char : n / 7 = l := by omega
        have bit : n - 7 * l = n % 7 := by omega
        simp [before, here, char, bit, show 7 * l ≤ n by omega, show n < 7 * l + 7 by omega]
      · simp [before, here, show ¬ n < 7 * l + 7 by omega]

theorem streamBit_packedBuf (msg : List Byte) (len : Nat) {n : Nat} (h : n < 280) :
    streamBit (packedBuf msg len) n =
      if n < 7 * min len 40 then (msg.getD (n / 7) 0).getLsbD (n % 7) else false := by
  rw [packedBuf_eq_packedPrefix, streamBit_packedPrefix msg _ h]

/-- Settles O43: turn by turn, each character's bits follow those of the characters before it. -/
theorem packedBitstreamClosedForm : Obligations.PackedBitstreamClosedForm := by
  unfold Obligations.PackedBitstreamClosedForm
  exact fun msg len n h => streamBit_packedBuf msg len h

/-- Settles O44: bit `7i + j` of the stream is bit `j` of character `i`. -/
theorem unpackingRecoversTheCharacters : Obligations.UnpackingRecoversTheCharacters := by
  unfold Obligations.UnpackingRecoversTheCharacters
  intro msg len i hi
  have mask : ∀ j, j < 8 → (0x7F : Byte).getLsbD j = decide (j < 7) := by decide
  refine BitVec.eq_of_getLsbD_eq fun j hj => ?_
  rw [unpackChar, getLsbD_ofBits, BitVec.getLsbD_and, mask j hj]
  by_cases h7 : j < 7
  · rw [streamBit_packedBuf msg len (by omega), if_pos (by omega), show (7 * i + j) / 7 = i by omega,
      show (7 * i + j) % 7 = j by omega]
    simp [h7, hj]
  · simp [h7]

end Sys2Proof.Machine
end

section
/-! PROOFS. The statements of 45_message_codeword.md about the assembler. The three bytes a slice loads are 24 bits of
the stream (R531), of which the slice's mask and shift keep 20 at bits 30..11 (R532, R534); the ranges are those of the
cursor (R530, R536). -/

namespace Sys2Proof.Machine

/-! ### The bits of a slice (R531, R532) -/

/-- The three bytes are 24 bits of the stream, the first at bit 31. -/
theorem getLsbD_load3 (pb : List Byte) (c : Nat) {m : Nat} (h : m < 24) :
    (load3 pb c).getLsbD (31 - m) = streamBit pb (8 * c + m) := by
  rw [load3, BitVec.getLsbD_append, BitVec.getLsbD_append, BitVec.getLsbD_append, if_neg (by omega), streamBit]
  by_cases first : m < 8
  · rw [if_neg (by omega), if_neg (by omega), show 31 - m - 8 - 8 - 8 = 7 - (8 * c + m) % 8 by omega,
      show (8 * c + m) / 8 = c by omega, pbByte]
  · by_cases second : m < 16
    · rw [if_neg (by omega), if_pos (by omega), show 31 - m - 8 - 8 = 7 - (8 * c + m) % 8 by omega,
        show (8 * c + m) / 8 = c + 1 by omega, pbByte]
    · rw [if_pos (by omega), show 31 - m - 8 = 7 - (8 * c + m) % 8 by omega,
        show (8 * c + m) / 8 = c + 2 by omega, pbByte]

theorem sliceField_even {k : Nat} (h : k % 2 = 0) (pb : List Byte) :
    sliceField pb k = (load3 pb (sliceCursor k) &&& 0xFFFFF000) >>> 1 := if_pos h

theorem sliceField_odd {k : Nat} (h : k % 2 ≠ 0) (pb : List Byte) :
    sliceField pb k = (load3 pb (sliceCursor k) &&& 0x0FFFFF00) <<< 3 := if_neg h

theorem getLsbD_evenMask : ∀ i, i < 32 → (0xFFFFF000 : Word).getLsbD i = decide (12 ≤ i) := by decide

theorem getLsbD_oddMask : ∀ i, i < 32 → (0x0FFFFF00 : Word).getLsbD i = decide (8 ≤ i ∧ i < 28) := by decide

/-- Bits 30..11 of slice `k` are stream bits `20k` to `20k + 19`. -/
theorem getLsbD_sliceField (pb : List Byte) (k : Nat) {i : Nat} (h : i < 20) :
    (sliceField pb k).getLsbD (30 - i) = streamBit pb (20 * k + i) := by
  by_cases even : k % 2 = 0
  · rw [sliceField_even even, BitVec.getLsbD_ushiftRight, BitVec.getLsbD_and, getLsbD_evenMask _ (by omega),
      decide_eq_true (by omega), Bool.and_true, show 1 + (30 - i) = 31 - i by omega, getLsbD_load3 pb _ (by omega),
      show 8 * sliceCursor k + i = 20 * k + i by rw [sliceCursor]; omega]
  · rw [sliceField_odd even, BitVec.getLsbD_shiftLeft, BitVec.getLsbD_and, getLsbD_oddMask _ (by omega),
      show 30 - i - 3 = 31 - (i + 4) by omega, getLsbD_load3 pb _ (by omega),
      show 8 * sliceCursor k + (i + 4) = 20 * k + i by rw [sliceCursor]; omega,
      decide_eq_true (show 8 ≤ 31 - (i + 4) ∧ 31 - (i + 4) < 28 by omega)]
    simp [show 30 - i < 32 by omega, show ¬ 30 - i < 3 by omega]

/-- Below bit 11 a slice is zero. -/
theorem getLsbD_sliceField_low (pb : List Byte) (k : Nat) {i : Nat} (h : i < 11) :
    (sliceField pb k).getLsbD i = false := by
  by_cases even : k % 2 = 0
  · rw [sliceField_even even, BitVec.getLsbD_ushiftRight, BitVec.getLsbD_and, getLsbD_evenMask _ (by omega),
      decide_eq_false (by omega), Bool.and_false]
  · rw [sliceField_odd even, BitVec.getLsbD_shiftLeft, BitVec.getLsbD_and, getLsbD_oddMask _ (by omega)]
    simp [show ¬ 8 ≤ i - 3 by omega]

/-! ### The codeword (R533, R534) -/

/-- The word a message codeword seals: the slice under the "is message" flag. -/
def messageField (pb : List Byte) (k : Nat) : Word := 0x80000000 ||| sliceField pb k

theorem msgCodeword_eq (span : Config.ParitySpan) (pb : List Byte) (k : Nat) :
    msgCodeword span pb k = sealWord span (messageField pb k) := rfl

theorem getLsbD_messageField (pb : List Byte) (k : Nat) {i : Nat} (h : i < 32) :
    (messageField pb k).getLsbD i = (decide (i = 31) || (sliceField pb k).getLsbD i) := by
  have flag : ∀ i, i < 32 → (0x80000000 : Word).getLsbD i = decide (i = 31) := by decide
  rw [messageField, BitVec.getLsbD_or, flag i h]

theorem low_messageField (pb : List Byte) (k : Nat) : (messageField pb k).extractLsb' 0 11 = 0 := by
  refine BitVec.eq_of_getLsbD_eq fun i hi => ?_
  rw [BitVec.getLsbD_extractLsb', Nat.zero_add, getLsbD_messageField pb k (by omega), getLsbD_sliceField_low pb k hi,
    decide_eq_false (show i ≠ 31 by omega), Bool.false_or, Bool.and_false]
  exact BitVec.getLsbD_zero.symm

theorem goodCodeword_msgCodeword (pb : List Byte) (k : Nat) : goodCodeword (msgCodeword .b30_1 pb k) :=
  goodCodeword_sealWord (low_messageField pb k)

theorem getLsbD_msgCodeword (span : Config.ParitySpan) (pb : List Byte) (k : Nat) {i : Nat} (h11 : 11 ≤ i)
    (h : i < 32) : (msgCodeword span pb k).getLsbD i = (decide (i = 31) || (sliceField pb k).getLsbD i) := by
  rw [msgCodeword_eq, getLsbD_sealWord_of_ge span _ h11, getLsbD_messageField pb k h]

theorem flag_msgCodeword (span : Config.ParitySpan) (pb : List Byte) (k : Nat) :
    (msgCodeword span pb k).getLsbD 31 = true := by
  rw [getLsbD_msgCodeword span pb k (by decide) (by decide), decide_eq_true rfl, Bool.true_or]

/-- The word that was sealed is the sealed word's data field. -/
theorem sealWord_and_dataMask (span : Config.ParitySpan) {w : Word} (h : w.extractLsb' 0 11 = 0) :
    sealWord span w &&& 0xFFFFF800 = w := by
  rw [mask_eq_dataFrame, dataFrame, dataField_sealWord, ← dataFrame, ← mask_eq_dataFrame]
  have mask : ∀ i, i < 32 → (0xFFFFF800 : Word).getLsbD i = decide (11 ≤ i) := by decide
  refine BitVec.eq_of_getLsbD_eq fun i hi => ?_
  rw [BitVec.getLsbD_and, mask i hi]
  by_cases h11 : 11 ≤ i
  · simp [h11]
  · rw [getLsbD_of_extractLsb'_eq_zero h (Nat.zero_le i) (by omega), Bool.false_and]

/-- Settles O45: the slice's bits, the flag, and the field that is sealed. -/
theorem messageCodewordCarriesItsSlice : Obligations.MessageCodewordCarriesItsSlice := by
  unfold Obligations.MessageCodewordCarriesItsSlice
  intro span pb k _
  refine ⟨fun i hi => ?_, flag_msgCodeword span pb k, ?_⟩
  · rw [getLsbD_msgCodeword span pb k (by omega) (by omega), decide_eq_false (by omega), Bool.false_or,
      getLsbD_sliceField pb k hi]
  · rw [msgCodeword_eq, sealWord_and_dataMask span (low_messageField pb k)]

/-! ### The ranges (R536, R539) -/

theorem load3_beyond {pb : List Byte} {c : Nat} (h : pb.length ≤ c) : load3 pb c = 0 := by
  have beyond (j : Nat) (hj : c ≤ j) : pbByte pb j = 0 := List.getD_eq_default _ _ (by omega)
  rw [load3, beyond c le_rfl, beyond (c + 1) (by omega), beyond (c + 2) (by omega)]
  rfl

theorem sliceField_beyond {pb : List Byte} {k : Nat} (h : pb.length ≤ sliceCursor k) : sliceField pb k = 0 := by
  rw [sliceField, load3_beyond h]
  split <;> rfl

theorem sealWord_flag : sealWord .b30_1 0x80000000 = 0x80000768 := by decide +kernel

/-- Settles O46: the ranges of the count and of the cursor, and the codeword of an empty slice by computation. -/
theorem sliceRanges : Obligations.SliceRanges := by
  unfold Obligations.SliceRanges
  refine ⟨fun p hp => ⟨msgCount_pos p, msgCount_le hp, fun k hk => ?_⟩, fun k hk => ?_, fun pb k hlen hk => ?_⟩
  · have count := msgCount_le hp
    rw [sliceCursor]
    omega
  · rw [sliceCursor]
    omega
  · have past : 35 ≤ sliceCursor k := by
      rw [sliceCursor]
      omega
    refine ⟨past, ?_⟩
    rw [msgCodeword_eq, messageField, sliceField_beyond (hlen.trans_le past)]
    exact sealWord_flag

/-- Settles O47: the 41 lengths by computation. -/
theorem bitsTheCountFormulaLosesAreTabled : Obligations.BitsTheCountFormulaLosesAreTabled := by
  unfold Obligations.BitsTheCountFormulaLosesAreTabled
  decide

end Sys2Proof.Machine
end

section
/-! PROOFS. The statements of 10_state.md section 7 and 60_exceptions.md section 1 about every command: which state each
way of running keeps (R115), and with which error and stage it ends (R611 to R613). -/

namespace Sys2Proof.Machine

/-! ### What each way of running keeps (R115) -/

/-- A command that only computes a word is none of the other five. -/
theorem ne_of_computedWord {s : State} {i : Instr} {v : Word} (h : computedWord s i = some v) :
    i ≠ .nop ∧ i ≠ .addrcw ∧ i ≠ .pack ∧ i ≠ .msgcw ∧ i ≠ .encode := by
  refine ⟨?_, ?_, ?_, ?_, ?_⟩ <;> (rintro rfl; cases h)

/-- No command writes below `PACK_BUF`, so none writes `MSG`. -/
theorem Runs.read_below_packBuf {s t : State} {i : Instr} (h : Runs s i t) {x : Nat} (hx : x < 0x080) :
    t.mem.read x = s.mem.read x := by
  cases h with
  | packFits => exact State.read_packed_outside s (.inl hx)
  | msgcwFits => exact State.read_sliced_outside s (.inl (by omega))
  | encodeExceeds => exact State.read_encodeIntermediates_outside s (.inl hx)
  | encodeFits => exact State.read_framed_outside s (.inl hx)
  | nop | computed | addrcw | packAbsent | packExceeds | msgcwExceeds | encodeAbsent => rfl

theorem Runs.msg_eq {s t : State} {i : Instr} (h : Runs s i t) {j : Nat} (hj : j < 40) : t.msg j = s.msg j :=
  h.read_below_packBuf (by rw [Config.msgBase]; omega)

/-- `RESULT` is kept by NOP and by a command that fails. -/
theorem Runs.result_kept {s t : State} {i : Instr} (h : Runs s i t) (quiet : i = .nop ∨ t.err ≠ .ok) :
    t.result = s.result := by
  cases h with
  | computed word =>
    obtain ⟨notNop, -⟩ := ne_of_computedWord word
    exact absurd rfl (quiet.resolve_left notNop)
  | addrcw | packFits | msgcwFits | encodeFits => exact absurd rfl (quiet.resolve_left (by decide))
  | encodeExceeds => exact State.encodeIntermediates_result s
  | nop | packAbsent | packExceeds | msgcwExceeds | encodeAbsent => rfl

theorem Runs.addrCw_kept {s t : State} {i : Instr} (h : Runs s i t) (notAddrcw : i ≠ .addrcw)
    (notEncoded : i = .encode → t.err = .nullInput) : t.addrCw = s.addrCw := by
  cases h with
  | addrcw => exact absurd rfl notAddrcw
  | encodeExceeds | encodeFits => cases notEncoded rfl
  | nop | computed | packAbsent | packExceeds | packFits | msgcwExceeds | msgcwFits | encodeAbsent => rfl

theorem Runs.packBuf_kept {s t : State} {i : Instr} (h : Runs s i t) (notPacked : i = .pack → t.err ≠ .ok)
    (notEncoded : i = .encode → t.err = .nullInput) :
    t.packLen = s.packLen ∧ ∀ j, j < 35 → t.packBuf j = s.packBuf j := by
  cases h with
  | packFits => exact absurd rfl (notPacked rfl)
  | encodeExceeds | encodeFits => cases notEncoded rfl
  | msgcwFits => exact ⟨rfl, fun j hj => State.packBuf_setCwBuf s _ hj⟩
  | nop | computed | addrcw | packAbsent | packExceeds | msgcwExceeds | encodeAbsent => exact ⟨rfl, fun _ _ => rfl⟩

theorem Runs.cwBuf_kept {s t : State} {i : Instr} (h : Runs s i t) (notSliced : i = .msgcw → t.err ≠ .ok)
    (notEncoded : i = .encode → t.err = .nullInput) :
    t.cwCount = s.cwCount ∧ ∀ k, k < 12 → t.cwBuf k = s.cwBuf k := by
  cases h with
  | msgcwFits => exact absurd rfl (notSliced rfl)
  | encodeExceeds | encodeFits => cases notEncoded rfl
  | packFits => exact ⟨rfl, fun k _ => State.cwBuf_setPackBuf s k (packedBuf_length ..).le⟩
  | nop | computed | addrcw | packAbsent | packExceeds | msgcwExceeds | encodeAbsent => exact ⟨rfl, fun _ _ => rfl⟩

/-- Every command but ENCODE keeps the output. -/
theorem outputKept_of_exec {s t : State} {i : Instr} (ran : exec i s = .next t) (notEncode : i ≠ .encode) :
    s.OutputKept t := by
  obtain ⟨u, out, kept⟩ := exec_outputKept notEncode s
  cases out.symm.trans ran
  exact kept

/-- An ENCODE that fails keeps `OUT_BUF` (R573; log 10). -/
theorem outBuf_kept_of_exec {s t : State} {i : Instr} (ran : exec i s = .next t)
    (notEncoded : i = .encode → t.err ≠ .ok) {j : Nat} (hj : j < 128) : t.outBuf j = s.outBuf j := by
  by_cases encode : i = .encode
  · subst encode
    cases runs_of_exec ran with
    | computed word => cases word
    | encodeAbsent => rfl
    | encodeExceeds => exact State.outBuf_encodeIntermediates s j
    | encodeFits => exact absurd rfl (notEncoded rfl)
  · obtain ⟨-, -, -, outBuf⟩ := outputKept_of_exec ran encode
    exact outBuf j hj

theorem outLen_kept_of_exec {s t : State} {i : Instr} (ran : exec i s = .next t)
    (notEncoded : i = .encode → t.err = .nullInput) : t.outLen = s.outLen := by
  by_cases encode : i = .encode
  · subst encode
    cases runs_of_exec ran with
    | computed word => cases word
    | encodeAbsent => rfl
    | encodeExceeds | encodeFits => cases notEncoded rfl
  · obtain ⟨outLen, -⟩ := outputKept_of_exec ran encode
    exact outLen

/-- Settles O48: each column of R115's table is what the ways of running keep. -/
theorem commandsWriteOnlyTheirState : Obligations.CommandsWriteOnlyTheirState := by
  unfold Obligations.CommandsWriteOnlyTheirState
  intro i s t ran
  have runs := runs_of_exec ran
  obtain ⟨opa, msgPresent, outPresent, msgLen, packCap, cwCap, outCap, pending, readData⟩ := runs.hostRegistersKept
  refine ⟨⟨opa, msgPresent, outPresent, msgLen, packCap, cwCap, outCap, fun j hj => runs.msg_eq hj, pending, readData⟩,
    runs.result_kept, runs.addrCw_kept, runs.packBuf_kept, runs.cwBuf_kept,
    fun failed j hj => outBuf_kept_of_exec ran failed hj, outLen_kept_of_exec ran, fun sticky => ?_⟩
  rw [runs.sticky_eq, sticky, Bool.true_or]

/-! ### The outcome of each way of running (R611 to R613) -/

/-- The condition of R611 on the command and `CTRL`. -/
def NullInput (s : State) (i : Instr) : Prop :=
  (i = .pack ∧ s.msgPresent = false) ∨ (i = .encode ∧ (s.msgPresent = false ∨ s.outPresent = false))

/-- The command computes a size that exceeds its capacity, and its stage is `g` (R612). -/
def Exceeds (s : State) (i : Instr) (g : Stage) : Prop :=
  (g = .pack ∧ i = .pack ∧ s.packCap.toNat < packedLen (msgLenOperand s)) ∨
    (g = .msgcw ∧ i = .msgcw ∧ s.cwCap.toNat < s.slices) ∨ (g = .frame ∧ i = .encode ∧ s.outCap.toNat < encodeLen s)

theorem exceeds_pack_iff {s : State} {i : Instr} :
    Exceeds s i .pack ↔ i = .pack ∧ s.packCap.toNat < packedLen (msgLenOperand s) := by
  simp [Exceeds]

theorem exceeds_msgcw_iff {s : State} {i : Instr} : Exceeds s i .msgcw ↔ i = .msgcw ∧ s.cwCap.toNat < s.slices := by
  simp [Exceeds]

theorem exceeds_frame_iff {s : State} {i : Instr} :
    Exceeds s i .frame ↔ i = .encode ∧ s.outCap.toNat < encodeLen s := by
  simp [Exceeds]

/-- The three kinds of outcome, each with the condition under which it comes about. -/
theorem Runs.outcome {s t : State} {i : Instr} (h : Runs s i t) :
    (NullInput s i ∧ t = s.complete .nullInput .none) ∨
    (¬ NullInput s i ∧ Exceeds s i t.stage ∧ t.err = .capacity) ∨
    (¬ NullInput s i ∧ (∀ g, ¬ Exceeds s i g) ∧ t.err = .ok ∧ t.stage = .none) := by
  cases h with
  | nop | addrcw => exact .inr (.inr (by simp [NullInput, Exceeds]))
  | computed word =>
    obtain ⟨-, -, notPack, notMsgcw, notEncode⟩ := ne_of_computedWord word
    exact .inr (.inr (by simp [NullInput, Exceeds, notPack, notMsgcw, notEncode]))
  | packAbsent absent => exact .inl ⟨.inl ⟨rfl, absent⟩, rfl⟩
  | packExceeds present exceeds => exact .inr (.inl (by simp [NullInput, Exceeds, present, exceeds]))
  | packFits present fits => exact .inr (.inr (by simp [NullInput, Exceeds, present, fits.not_gt]))
  | msgcwExceeds exceeds => exact .inr (.inl (by simp [NullInput, Exceeds, exceeds]))
  | msgcwFits fits => exact .inr (.inr (by simp [NullInput, Exceeds, fits.not_gt]))
  | encodeAbsent absent => exact .inl ⟨.inr ⟨rfl, absent⟩, rfl⟩
  | encodeExceeds msg dst exceeds => exact .inr (.inl (by simp [NullInput, Exceeds, msg, dst, exceeds]))
  | encodeFits msg dst fits => exact .inr (.inr (by simp [NullInput, Exceeds, msg, dst, fits.not_gt]))

theorem Runs.err_eq_nullInput_iff {s t : State} {i : Instr} (h : Runs s i t) : t.err = .nullInput ↔ NullInput s i := by
  obtain ⟨null, rfl⟩ | ⟨present, -, err⟩ | ⟨present, -, err, -⟩ := h.outcome
  · exact iff_of_true rfl null
  · simp [err, present]
  · simp [err, present]

/-- A command has one capacity to exceed, so one stage. -/
theorem Exceeds.stage_unique {s : State} {i : Instr} {g g' : Stage} (h : Exceeds s i g) (h' : Exceeds s i g') :
    g = g' := by
  obtain ⟨rfl, rfl, -⟩ | ⟨rfl, rfl, -⟩ | ⟨rfl, rfl, -⟩ := h
  · obtain ⟨rfl, -⟩ : g' = .pack ∧ _ := by simpa [Exceeds] using h'
    rfl
  · obtain ⟨rfl, -⟩ : g' = .msgcw ∧ _ := by simpa [Exceeds] using h'
    rfl
  · obtain ⟨rfl, -⟩ : g' = .frame ∧ _ := by simpa [Exceeds] using h'
    rfl

theorem Runs.capacity_iff {s t : State} {i : Instr} (h : Runs s i t) (g : Stage) :
    (t.err = .capacity ∧ t.stage = g) ↔ ¬ NullInput s i ∧ Exceeds s i g := by
  obtain ⟨null, rfl⟩ | ⟨present, exceeds, err⟩ | ⟨-, fits, err, -⟩ := h.outcome
  · simp [null]
  · constructor
    · rintro ⟨-, rfl⟩
      exact ⟨present, exceeds⟩
    · rintro ⟨-, exceeds'⟩
      exact ⟨err, exceeds.stage_unique exceeds'⟩
  · simp [err, fits g]

/-- A stage is named exactly with CAPACITY (R600, R612). -/
theorem Runs.stage_eq_none_iff {s t : State} {i : Instr} (h : Runs s i t) : t.stage = .none ↔ t.err ≠ .capacity := by
  obtain ⟨-, rfl⟩ | ⟨-, exceeds, err⟩ | ⟨-, -, err, stage⟩ := h.outcome
  · simp
  · obtain ⟨stage, -⟩ | ⟨stage, -⟩ | ⟨stage, -⟩ := exceeds <;> simp [stage, err]
  · simp [stage, err]

theorem Runs.err_ne_illegalCmd {s t : State} {i : Instr} (h : Runs s i t) : t.err ≠ .illegalCmd := by
  obtain ⟨-, rfl⟩ | ⟨-, -, err⟩ | ⟨-, -, err, -⟩ := h.outcome
  · simp
  · simp [err]
  · simp [err]

/-- A NULL_INPUT outcome writes `STATUS` only (R611). -/
theorem Runs.eq_of_nullInput {s t : State} {i : Instr} (h : Runs s i t) (null : t.err = .nullInput) :
    t = { s with err := .nullInput, stage := .none, sticky := true } := by
  obtain ⟨-, rfl⟩ | ⟨-, -, err⟩ | ⟨-, -, err, -⟩ := h.outcome
  · exact s.complete_error (by decide) .none
  · simp [err] at null
  · simp [err] at null

/-- Settles O49: NULL_INPUT comes about exactly when R611 says, and CAPACITY with a stage exactly when that stage's
capacity is exceeded and no null applies, which for MSGCW it never does. -/
theorem errorsAreRaisedExactlyWhenTheRulesSay : Obligations.ErrorsAreRaisedExactlyWhenTheRulesSay := by
  unfold Obligations.ErrorsAreRaisedExactlyWhenTheRulesSay
  intro i s t ran
  have runs := runs_of_exec ran
  refine ⟨runs.err_eq_nullInput_iff, runs.eq_of_nullInput, (runs.capacity_iff .pack).trans ?_,
    (runs.capacity_iff .msgcw).trans ?_, (runs.capacity_iff .frame).trans ?_, runs.stage_eq_none_iff,
    runs.err_ne_illegalCmd, runs.sticky_eq⟩
  · rw [exceeds_pack_iff]
    exact and_left_comm
  · rw [exceeds_msgcw_iff]
    refine and_iff_right_of_imp ?_
    rintro ⟨rfl, -⟩
    simp [NullInput]
  · rw [exceeds_frame_iff]
    exact and_left_comm

end Sys2Proof.Machine
end

section
/-! PROOFS. The statement of 20_memory.md section 4 about a command that runs again (R208, R616). A store that holds a
block is left as it is by storing the block again, and no later store above the block ends that; what a command computes
depends on registers and bytes it does not write; so its second run rewrites what is there. -/

namespace Sys2Proof.Machine

/-! ### Stores that hold a block -/

/-- The store lists exactly the block's cells between what lies below the block and what lies above it. -/
def Memory.Holds (m : Memory) (a : Nat) (bs : List Byte) : Prop :=
  ∃ below above : Memory, m = below ++ cellsFrom a bs ++ above ∧ (∀ c ∈ below, c.1 < a) ∧
    ∀ c ∈ above, a + bs.length ≤ c.1

/-- A filter by an upper bound keeps the cells below it. -/
theorem filter_lt_eq_self {m : Memory} {a : Nat} (h : ∀ c ∈ m, c.1 < a) : m.filter (fun c => c.1 < a) = m :=
  List.filter_eq_self.2 fun c hc => decide_eq_true (h c hc)

theorem filter_lt_eq_nil {m : Memory} {a : Nat} (h : ∀ c ∈ m, a ≤ c.1) : m.filter (fun c => c.1 < a) = [] :=
  List.filter_eq_nil_iff.2 fun c hc => by simpa using h c hc

theorem filter_ge_eq_self {m : Memory} {a : Nat} (h : ∀ c ∈ m, a ≤ c.1) : m.filter (fun c => a ≤ c.1) = m :=
  List.filter_eq_self.2 fun c hc => decide_eq_true (h c hc)

theorem filter_ge_eq_nil {m : Memory} {a : Nat} (h : ∀ c ∈ m, c.1 < a) : m.filter (fun c => a ≤ c.1) = [] :=
  List.filter_eq_nil_iff.2 fun c hc => by simpa using h c hc

theorem Memory.holds_store (m : Memory) (a : Nat) (bs : List Byte) : (m.store a bs).Holds a bs :=
  ⟨_, _, rfl, fun _ hc => of_decide_eq_true (List.mem_filter.1 hc).2,
    fun _ hc => of_decide_eq_true (List.mem_filter.1 hc).2⟩

/-- Storing a block that is held changes nothing, not even the list. -/
theorem Memory.Holds.store_eq {m : Memory} {a : Nat} {bs : List Byte} (h : m.Holds a bs) : m.store a bs = m := by
  obtain ⟨below, above, rfl, hbelow, habove⟩ := h
  have inside (c : Host.Cell) (hc : c ∈ cellsFrom a bs) : a ≤ c.1 ∧ c.1 < a + bs.length := by
    obtain ⟨first, last, -⟩ := mem_cellsFrom hc
    exact ⟨first, last⟩
  have kept : (below ++ cellsFrom a bs ++ above).filter (fun c => c.1 < a) = below := by
    rw [List.filter_append, List.filter_append, filter_lt_eq_self hbelow, filter_lt_eq_nil fun c hc => (inside c hc).1,
      filter_lt_eq_nil fun c hc => (Nat.le_add_right ..).trans (habove c hc), List.append_nil, List.append_nil]
  have kept' : (below ++ cellsFrom a bs ++ above).filter (fun c => a + bs.length ≤ c.1) = above := by
    rw [List.filter_append, List.filter_append, filter_ge_eq_self habove, filter_ge_eq_nil fun c hc => (inside c hc).2,
      filter_ge_eq_nil fun c hc => (hbelow c hc).trans_le (Nat.le_add_right ..), List.nil_append, List.nil_append]
  rw [Memory.store, kept, kept']

/-- A store above the block keeps it. -/
theorem Memory.Holds.store_above {m : Memory} {a a' : Nat} {bs : List Byte} (h : m.Holds a bs) (ha : a + bs.length ≤ a')
    (bs' : List Byte) : (m.store a' bs').Holds a bs := by
  obtain ⟨below, above, rfl, hbelow, habove⟩ := h
  refine ⟨below, above.filter (fun c => c.1 < a') ++ cellsFrom a' bs' ++
    (below ++ cellsFrom a bs ++ above).filter (fun c => a' + bs'.length ≤ c.1), ?_, hbelow, fun c hc => ?_⟩
  · rw [Memory.store, List.filter_append, List.filter_append, filter_lt_eq_self fun c hc => ?_,
      filter_lt_eq_self fun c hc => ?_]
    · simp only [List.append_assoc]
    · obtain ⟨-, last, -⟩ := mem_cellsFrom hc
      omega
    · have := hbelow c hc
      omega
  · simp only [List.mem_append, List.mem_filter, decide_eq_true_eq] at hc
    obtain (⟨hc, -⟩ | hc) | ⟨-, hc⟩ := hc
    · exact habove c hc
    · obtain ⟨first, -⟩ := mem_cellsFrom hc
      omega
    · omega

/-! ### Operands and results on the state a command left -/

/-- A second completion with the same outcome changes nothing. -/
theorem State.complete_complete (s : State) (e : ErrCode) (g : Stage) :
    (s.complete e g).complete e g = s.complete e g := by
  cases e <;> rfl

/-- `MSG` lies below everything a command writes. -/
theorem Runs.msgOperand_eq {s t : State} {i : Instr} (h : Runs s i t) : msgOperand t = msgOperand s :=
  List.map_congr_left fun j hj => h.read_below_packBuf (by
    have := List.mem_range.1 hj
    rw [Config.maxMsgLen] at this
    rw [Config.msgBase]
    omega)

theorem Runs.msgLenOperand_eq {s t : State} {i : Instr} (h : Runs s i t) : msgLenOperand t = msgLenOperand s := by
  obtain ⟨-, -, -, msgLen, -⟩ := h.hostRegistersKept
  rw [msgLenOperand, msgLen, msgLenOperand]

theorem exec_of_computedWord {s : State} {i : Instr} {v : Word} (h : computedWord s i = some v) :
    exec i s = .next ((s.setResult v).complete .ok .none) := by
  cases i with
  | rev8 | bch | par | sealCmd | msgcw1 => cases h; rfl
  | nop | addrcw | pack | msgcw | encode => cases h

/-- The word depends on `OPA` and the buffers only. -/
theorem computedWord_congr {s t : State} (opa : t.opa = s.opa) (mem : t.mem = s.mem) (i : Instr) :
    computedWord t i = computedWord s i := by
  have packBuf : packBufOperand t = packBufOperand s := by rw [packBufOperand, mem, packBufOperand]
  cases i <;> simp only [computedWord, rev8Result, opaByte, opa, packBuf]

/-- PACK on a state that holds its packed buffer, length and result. -/
theorem State.packed_complete_eq_self {s t : State} (ht : t = s.packed.complete .ok .none) (runs : Runs s .pack t) :
    t.packed.complete .ok .none = t := by
  have holds : t.mem.Holds Config.packBase (packedBuf (msgOperand t) (msgLenOperand t)) := by
    rw [runs.msgOperand_eq, runs.msgLenOperand_eq, ht]
    exact Memory.holds_store ..
  have mem : t.packed.mem = t.mem := holds.store_eq
  rw [State.packed_complete_ok, mem, runs.msgLenOperand_eq, ht]
  rfl

/-- MSGCW on a state that holds its codewords, count and result. -/
theorem State.sliced_complete_eq_self {s t : State} (ht : t = s.sliced.complete .ok .none) :
    t.sliced.complete .ok .none = t := by
  have operand : packBufOperand t = packBufOperand s := by
    rw [packBufOperand_eq, packBufOperand_eq, ht]
    exact List.map_congr_left fun j hj => State.packBuf_setCwBuf s _ (List.mem_range.1 hj)
  have slices : t.slices = s.slices := by
    rw [ht]
    rfl
  have holds : t.mem.Holds Config.cwBase ((msgCodewords .b30_1 (packBufOperand t) t.slices).flatMap bytesLE) := by
    rw [operand, slices, ht]
    exact Memory.holds_store ..
  have mem : t.sliced.mem = t.mem := holds.store_eq
  rw [State.sliced_complete_ok, mem, slices, ht]
  rfl

/-! ### ENCODE on the state it left -/

/-- The bytes ENCODE stores in `CW_BUF`. -/
def codewordBytes (s : State) : List Byte :=
  (msgCodewords .b30_1 (packedBuf (msgOperand s) (msgLenOperand s)) (encodeCount s)).flatMap bytesLE

theorem State.encodeIntermediates_mem (s : State) : s.encodeIntermediates.mem =
    (s.mem.store Config.packBase (packedBuf (msgOperand s) (msgLenOperand s))).store Config.cwBase
      (codewordBytes s) := rfl

theorem codewordBytes_length (s : State) : (codewordBytes s).length = 48 := by
  rw [codewordBytes, flatMap_four_length bytesLE_length, msgCodewords_length]

/-- The store lists the two blocks of intermediates that ENCODE writes from `s`. -/
def Memory.HoldsEncoded (m : Memory) (s : State) : Prop :=
  m.Holds Config.packBase (packedBuf (msgOperand s) (msgLenOperand s)) ∧ m.Holds Config.cwBase (codewordBytes s)

theorem State.holdsEncoded_encodeIntermediates (s : State) : s.encodeIntermediates.mem.HoldsEncoded s := by
  rw [State.encodeIntermediates_mem]
  exact ⟨(Memory.holds_store ..).store_above (by rw [packedBuf_length]; decide) _, Memory.holds_store ..⟩

theorem Memory.HoldsEncoded.store_outBuf {m : Memory} {s : State} (h : m.HoldsEncoded s) (bs : List Byte) :
    (m.store Config.outBase bs).HoldsEncoded s := by
  obtain ⟨packed, codewords⟩ := h
  exact ⟨packed.store_above (by rw [packedBuf_length]; decide) bs,
    codewords.store_above (by rw [codewordBytes_length]; decide) bs⟩

/-- On a store that lists them, ENCODE's intermediates are written where they are. -/
theorem Memory.HoldsEncoded.encodeIntermediates_mem {t : State} (h : t.mem.HoldsEncoded t) :
    t.encodeIntermediates.mem = t.mem := by
  obtain ⟨packed, codewords⟩ := h
  rw [State.encodeIntermediates_mem, packed.store_eq, codewords.store_eq]

/-- What ENCODE computes depends on its operands only. -/
theorem Memory.HoldsEncoded.congr {m : Memory} {s t : State} (h : m.HoldsEncoded s) (msg : msgOperand t = msgOperand s)
    (len : msgLenOperand t = msgLenOperand s) : m.HoldsEncoded t := by
  rwa [Memory.HoldsEncoded, codewordBytes, encodeCount, msg, len, ← encodeCount, ← codewordBytes]

theorem encodeFrame_congr {s t : State} (opa : t.opa = s.opa) (msg : msgOperand t = msgOperand s)
    (len : msgLenOperand t = msgLenOperand s) : encodeFrame t = encodeFrame s := by
  simp only [encodeFrame, opaWord, opa, msg, len]

theorem State.encodeExceeds_complete_eq_self {s t : State}
    (ht : t = (s.encodeIntermediates.setOutLen 0).complete .capacity .frame) (runs : Runs s .encode t) :
    (t.encodeIntermediates.setOutLen 0).complete .capacity .frame = t := by
  have holds : t.mem.HoldsEncoded t := by
    refine Memory.HoldsEncoded.congr ?_ runs.msgOperand_eq runs.msgLenOperand_eq
    rw [ht]
    exact s.holdsEncoded_encodeIntermediates
  rw [State.encodeIntermediates_complete_capacity, holds.encodeIntermediates_mem, encodeCount, runs.msgLenOperand_eq,
    ht, State.encodeIntermediates_complete_capacity]
  rfl

theorem State.framed_complete_eq_self {s t : State} (ht : t = s.framed.complete .ok .none) (runs : Runs s .encode t) :
    t.framed.complete .ok .none = t := by
  obtain ⟨opa, -⟩ := runs.hostRegistersKept
  have holds : t.mem.HoldsEncoded t := by
    refine Memory.HoldsEncoded.congr ?_ runs.msgOperand_eq runs.msgLenOperand_eq
    rw [ht]
    exact s.holdsEncoded_encodeIntermediates.store_outBuf _
  have holdsFrame : t.mem.Holds Config.outBase (encodeFrame t) := by
    rw [encodeFrame_congr opa runs.msgOperand_eq runs.msgLenOperand_eq, ht]
    exact Memory.holds_store ..
  have mem : t.framed.mem = t.mem := by
    have stored : t.framed.mem = t.encodeIntermediates.mem.store Config.outBase (encodeFrame t) := rfl
    rw [stored, holds.encodeIntermediates_mem, holdsFrame.store_eq]
  rw [State.framed_complete_ok, mem, encodeLen, encodeCount, runs.msgLenOperand_eq, ht, State.framed_complete_ok]
  rfl

theorem encodeLen_congr {s t : State} (len : msgLenOperand t = msgLenOperand s) : encodeLen t = encodeLen s := by
  rw [encodeLen, len, ← encodeLen]

theorem exec_encode_of_exceeded {s t : State} (ht : t = (s.encodeIntermediates.setOutLen 0).complete .capacity .frame)
    (msg : s.msgPresent = true) (dst : s.outPresent = true) (exceeds : s.outCap.toNat < encodeLen s) :
    exec .encode t = .next t := by
  have runs : Runs s .encode t := ht ▸ .encodeExceeds msg dst exceeds
  obtain ⟨-, msgPresent, outPresent, -, -, -, outCap, -⟩ := runs.hostRegistersKept
  have exceeds' : t.outCap.toNat < encodeLen t := by rwa [encodeLen_congr runs.msgLenOperand_eq, outCap]
  rw [exec_encode_of_exceeds (msgPresent.trans msg) (outPresent.trans dst) exceeds',
    State.encodeExceeds_complete_eq_self ht runs]

theorem exec_encode_of_framed {s t : State} (ht : t = s.framed.complete .ok .none) (msg : s.msgPresent = true)
    (dst : s.outPresent = true) (fits : encodeLen s ≤ s.outCap.toNat) : exec .encode t = .next t := by
  have runs : Runs s .encode t := ht ▸ .encodeFits msg dst fits
  obtain ⟨-, msgPresent, outPresent, -, -, -, outCap, -⟩ := runs.hostRegistersKept
  have fits' : encodeLen t ≤ t.outCap.toNat := by rwa [encodeLen_congr runs.msgLenOperand_eq, outCap]
  rw [exec_encode_of_fits (msgPresent.trans msg) (outPresent.trans dst) fits', State.framed_complete_eq_self ht runs]

/-- Settles O50: the second run takes the way of the first, on the operands of the first, and writes what is there. -/
theorem repeatingACommandChangesNothing : Obligations.RepeatingACommandChangesNothing := by
  unfold Obligations.RepeatingACommandChangesNothing
  intro i s t ran
  cases runs_of_exec ran with
  | nop => rw [exec_nop, State.complete_complete]
  | computed word => exact exec_of_computedWord ((computedWord_congr rfl rfl i).trans word)
  | addrcw => exact exec_addrcw _
  | packAbsent absent => rw [exec_pack_of_absent (s := s.complete ..) absent, State.complete_complete]
  | packExceeds present exceeds =>
    rw [exec_pack_of_exceeds (s := s.complete ..) present exceeds, State.complete_complete]
  | packFits present fits =>
    rw [exec_pack_of_fits (s := s.packed.complete ..) present fits,
      State.packed_complete_eq_self rfl (.packFits present fits)]
  | msgcwExceeds exceeds => rw [exec_msgcw_of_exceeds (s := s.complete ..) exceeds, State.complete_complete]
  | msgcwFits fits =>
    rw [exec_msgcw_of_fits (s := s.sliced.complete ..) fits, State.sliced_complete_eq_self rfl]
  | encodeAbsent absent => rw [exec_encode_of_absent (s := s.complete ..) absent, State.complete_complete]
  | encodeExceeds msg dst exceeds => exact exec_encode_of_exceeded rfl msg dst exceeds
  | encodeFits msg dst fits => exact exec_encode_of_framed rfl msg dst fits

end Sys2Proof.Machine
end

section
/-! PROOFS. The statements of 44_packer.md and 46_frame.md about ENCODE as a whole: what it reads of the message (R501,
R575), how it agrees with PACK, MSGCW and ADDRCW (R574), and the words of its frame (R575). -/

namespace Sys2Proof.Machine

/-! ### What of the message is read (R501) -/

/-- The packing loop reads the characters of its turns only. -/
theorem packedPrefix_congr {msg msg' : List Byte} {l : Nat} (h : ∀ i, i < l → msg.getD i 0 = msg'.getD i 0) :
    packedPrefix msg l = packedPrefix msg' l := by
  induction l with
  | zero => rfl
  | succ l ih =>
    rw [packedPrefix_succ, packedPrefix_succ, ih fun i hi => h i (by omega), packChar, packChar, h l (by omega)]

theorem packedBuf_congr {msg msg' : List Byte} {len len' : Nat} (truncated : min len 40 = min len' 40)
    (h : ∀ i, i < min len 40 → msg.getD i 0 = msg'.getD i 0) : packedBuf msg len = packedBuf msg' len' := by
  rw [packedBuf_eq_packedPrefix, packedBuf_eq_packedPrefix, ← truncated, packedPrefix_congr h]

theorem packedLen_congr {len len' : Nat} (truncated : min len 40 = min len' 40) : packedLen len = packedLen len' := by
  rw [packedLen, packedLen, truncatedLen, truncatedLen, Config.maxMsgLen, truncated]

/-- `s` and `s'` have the same truncated length and the same characters below it. -/
def State.SameMessage (s s' : State) : Prop :=
  min s.msgLen.toNat 40 = min s'.msgLen.toNat 40 ∧ ∀ i, i < min s.msgLen.toNat 40 → s.msg i = s'.msg i

theorem State.SameMessage.packedBuf_eq {s s' : State} (h : s.SameMessage s') :
    packedBuf (msgOperand s) (msgLenOperand s) = packedBuf (msgOperand s') (msgLenOperand s') := by
  obtain ⟨truncated, chars⟩ := h
  refine packedBuf_congr truncated fun i hi => ?_
  have inBuffer : i < 40 := by
    rw [msgLenOperand] at hi
    omega
  rw [msgOperand_getD, msgOperand_getD, if_pos inBuffer, if_pos inBuffer, chars i hi]

theorem State.SameMessage.packedLen_eq {s s' : State} (h : s.SameMessage s') :
    packedLen (msgLenOperand s) = packedLen (msgLenOperand s') := by
  obtain ⟨truncated, -⟩ := h
  exact packedLen_congr truncated

theorem State.SameMessage.encodeCount_eq {s s' : State} (h : s.SameMessage s') : encodeCount s = encodeCount s' := by
  rw [encodeCount, h.packedLen_eq, ← encodeCount]

theorem State.SameMessage.encodeLen_eq {s s' : State} (h : s.SameMessage s') : encodeLen s = encodeLen s' := by
  rw [encodeLen, h.packedLen_eq, ← encodeLen]

theorem State.SameMessage.encodeFrame_eq {s s' : State} (h : s.SameMessage s') (opa : s.opa = s'.opa) :
    encodeFrame s = encodeFrame s' := by
  simp only [encodeFrame, opaWord, opa, h.packedBuf_eq, h.packedLen_eq]

/-- Two states that hold the intermediates of the same message hold the same ones. -/
theorem State.HoldsIntermediates.eq {s s' t t' : State} (h : s.HoldsIntermediates t) (h' : s'.HoldsIntermediates t')
    (same : s.SameMessage s') :
    (∀ j, j < 35 → t'.packBuf j = t.packBuf j) ∧ ∀ k, k < 12 → t'.cwBuf k = t.cwBuf k := by
  obtain ⟨packed, codewords⟩ := h
  obtain ⟨packed', codewords'⟩ := h'
  have packBuf (j : Nat) (hj : j < 35) : t'.packBuf j = t.packBuf j := by
    rw [packed j hj, packed' j hj, same.packedBuf_eq]
  have operand : packBufOperand t' = packBufOperand t := by
    rw [packBufOperand_eq, packBufOperand_eq]
    exact List.map_congr_left fun j hj => packBuf j (List.mem_range.1 hj)
  refine ⟨packBuf, fun k hk => ?_⟩
  rw [codewords k hk, codewords' k hk, operand, same.encodeCount_eq]

/-! ### What ENCODE leaves past the null check (R574) -/

/-- `t` has the lengths, the address codeword and the buffers that ENCODE computes from `s` before its length check. -/
def State.Encoded (s t : State) : Prop :=
  t.packLen = BitVec.ofNat 8 (packedLen (msgLenOperand s)) ∧ t.cwCount = BitVec.ofNat 8 (encodeCount s) ∧
    t.addrCw = addrCodeword .b30_1 s.opa ∧ s.HoldsIntermediates t

/-- The buffers are all that the intermediates in them depend on. -/
theorem State.HoldsIntermediates.of_mem_eq {s t u : State} (h : s.HoldsIntermediates t) (mem : u.mem = t.mem) :
    s.HoldsIntermediates u := by
  simpa only [State.HoldsIntermediates, State.packBuf, State.cwBuf, packBufOperand, mem] using h

theorem State.encoded_encodeIntermediates_complete (s : State) (e : ErrCode) (g : Stage) :
    s.Encoded ((s.encodeIntermediates.setOutLen 0).complete e g) := by
  refine ⟨?_, ?_, ?_, s.holdsIntermediates_encodeIntermediates.of_mem_eq ?_⟩
  · simp
  · simp [encodeCount]
  · simp [opaWord, Config.paritySpan]
  · simp

theorem State.encoded_framed_complete (s : State) (e : ErrCode) (g : Stage) : s.Encoded (s.framed.complete e g) := by
  refine ⟨?_, ?_, ?_, (s.holdsIntermediates_encodeIntermediates.setOutBuf (encodeFrame s)).of_mem_eq ?_⟩
  · simp [State.framed]
  · simp [State.framed, encodeCount]
  · simp [State.framed, opaWord, Config.paritySpan]
  · simp [State.framed]

/-- With a message and an output buffer ENCODE leaves its intermediates, whichever way it ends. -/
theorem exec_encode_encoded {s : State} (msg : s.msgPresent = true) (dst : s.outPresent = true) :
    ∃ t, exec .encode s = .next t ∧ s.Encoded t := by
  by_cases fits : encodeLen s ≤ s.outCap.toNat
  · exact ⟨_, exec_encode_of_fits msg dst fits, s.encoded_framed_complete _ _⟩
  · exact ⟨_, exec_encode_of_exceeds msg dst (not_le.1 fits), s.encoded_encodeIntermediates_complete _ _⟩

/-- The registers that the outcome of ENCODE depends on are in `s'` what they are in `s`. -/
def State.SameControl (s s' : State) : Prop :=
  s'.msgPresent = s.msgPresent ∧ s'.outPresent = s.outPresent ∧ s'.sticky = s.sticky ∧ s'.opa = s.opa ∧
    s'.result = s.result ∧ s'.outCap = s.outCap

/-- What ENCODE reports is in `t'` what it is in `t`: the outcome, `OUT_LEN`, `RESULT` and the bytes of the frame. -/
def State.SameReport (t t' : State) : Prop :=
  t'.err = t.err ∧ t'.stage = t.stage ∧ t'.outLen = t.outLen ∧ t'.result = t.result ∧
    ∀ j, j < t.outLen.toNat → t'.outBuf j = t.outBuf j

theorem State.outLen_framed_toNat (s : State) : s.framed.outLen.toNat = encodeLen s := by
  obtain ⟨-, longest⟩ := encodeLen_range s
  rw [State.framed, State.setResult_outLen, State.setOutLen_outLen, BitVec.toNat_ofNat, Nat.mod_eq_of_lt (by omega)]

theorem State.outBuf_complete (s : State) (e : ErrCode) (g : Stage) (j : Nat) :
    (s.complete e g).outBuf j = s.outBuf j := rfl

theorem State.SameMessage.sameReport_framed {s s' : State} (same : s.SameMessage s') (control : s.SameControl s') :
    (s.framed.complete .ok .none).SameReport (s'.framed.complete .ok .none) := by
  obtain ⟨-, -, -, opa, -, -⟩ := control
  refine ⟨?_, ?_, ?_, ?_, fun j hj => ?_⟩
  · simp
  · simp
  · simp [State.framed, same.encodeLen_eq]
  · simp [State.framed, same.encodeLen_eq]
  · have inFrame : j < encodeLen s := by rwa [State.complete_outLen, State.outLen_framed_toNat] at hj
    rw [State.outBuf_complete, State.outBuf_complete]
    calc
      s'.framed.outBuf j = (encodeFrame s').getD j 0 := State.outBuf_framed s' (same.encodeLen_eq ▸ inFrame)
      _ = (encodeFrame s).getD j 0 := by rw [same.encodeFrame_eq opa.symm]
      _ = s.framed.outBuf j := (State.outBuf_framed s inFrame).symm

theorem State.SameControl.sameReport_exceeds {s s' : State} (control : s.SameControl s') :
    ((s.encodeIntermediates.setOutLen 0).complete .capacity .frame).SameReport
      ((s'.encodeIntermediates.setOutLen 0).complete .capacity .frame) := by
  obtain ⟨-, -, -, -, result, -⟩ := control
  refine ⟨?_, ?_, ?_, ?_, fun j hj => ?_⟩
  · simp
  · simp
  · simp
  · simp [result]
  · simp at hj

/-- The same message and control registers give the same report: the frame lengths agree, so the endings do. -/
theorem exec_encode_sameReport {s s' t t' : State} (same : s.SameMessage s') (control : s.SameControl s')
    (msg : s.msgPresent = true) (dst : s.outPresent = true) (ran : exec .encode s = .next t)
    (ran' : exec .encode s' = .next t') : t.SameReport t' := by
  have ⟨msgPresent, outPresent, _, _, _, outCap⟩ := control
  have msg' : s'.msgPresent = true := msgPresent.trans msg
  have dst' : s'.outPresent = true := outPresent.trans dst
  by_cases fits : encodeLen s ≤ s.outCap.toNat
  · have fits' : encodeLen s' ≤ s'.outCap.toNat := by rwa [← same.encodeLen_eq, outCap]
    obtain rfl := Host.Outcome.next.inj ((exec_encode_of_fits msg dst fits).symm.trans ran)
    obtain rfl := Host.Outcome.next.inj ((exec_encode_of_fits msg' dst' fits').symm.trans ran')
    exact same.sameReport_framed control
  · have exceeds' : s'.outCap.toNat < encodeLen s' := by rwa [← same.encodeLen_eq, outCap, ← not_le]
    obtain rfl := Host.Outcome.next.inj ((exec_encode_of_exceeds msg dst (not_le.1 fits)).symm.trans ran)
    obtain rfl := Host.Outcome.next.inj ((exec_encode_of_exceeds msg' dst' exceeds').symm.trans ran')
    exact control.sameReport_exceeds

/-- Settles O52: the same message gives the same report, and the same intermediates. -/
theorem encodeReadsOnlyTheTruncatedMessage : Obligations.EncodeReadsOnlyTheTruncatedMessage := by
  unfold Obligations.EncodeReadsOnlyTheTruncatedMessage
  intro s s' t t' registers truncated chars msg dst ran ran'
  have same : s.SameMessage s' := ⟨truncated, chars⟩
  have control : s.SameControl s' := by
    rw [registers]
    exact ⟨rfl, rfl, rfl, rfl, rfl, rfl⟩
  obtain ⟨err, stage, outLen, result, outBuf⟩ := exec_encode_sameReport same control msg dst ran ran'
  obtain ⟨msgPresent, outPresent, sticky, opa, -, -⟩ := control
  obtain ⟨u, out, packLen, cwCount, addrCw, holds⟩ := exec_encode_encoded msg dst
  obtain ⟨u', out', packLen', cwCount', addrCw', holds'⟩ :=
    exec_encode_encoded (msgPresent.trans msg) (outPresent.trans dst)
  obtain rfl := Host.Outcome.next.inj (out.symm.trans ran)
  obtain rfl := Host.Outcome.next.inj (out'.symm.trans ran')
  obtain ⟨packBuf, cwBuf⟩ := holds.eq holds' same
  refine ⟨err, stage, ?_, ?_, ?_, outLen, ?_, result, packBuf, cwBuf, outBuf⟩
  · rw [(runs_of_exec ran).sticky_eq, (runs_of_exec ran').sticky_eq, sticky, err]
  · rw [packLen, packLen', same.packedLen_eq]
  · rw [cwCount, cwCount', same.encodeCount_eq]
  · rw [addrCw, addrCw', opa]

/-! ### ENCODE and the commands in sequence (R574) -/

/-- MSGCW after PACK counts what ENCODE counts: the packed length fits its register. -/
theorem State.slices_packed (s : State) : s.packed.slices = encodeCount s := by
  have length : packLenOperand s.packed = packedLen (msgLenOperand s) := by
    have range := packedLen_le (msgLenOperand s)
    show (BitVec.ofNat 8 (packedLen (msgLenOperand s))).toNat = _
    rw [BitVec.toNat_ofNat, Nat.mod_eq_of_lt (by omega)]
  rw [State.slices, length, encodeCount]

/-- What PACK and then MSGCW have written before MSGCW completes. -/
def State.packedSliced (s : State) : State := (s.packed.complete .ok .none).sliced

/-- PACK and then MSGCW leave ENCODE's intermediates in the buffers. -/
theorem State.holdsIntermediates_packedSliced (s : State) :
    s.HoldsIntermediates s.packedSliced := by
  have packBuf (j : Nat) (hj : j < 35) : s.packedSliced.packBuf j = s.packed.packBuf j :=
    State.packBuf_setCwBuf _ _ hj
  have operand : packBufOperand s.packedSliced = packBufOperand s.packed := by
    rw [packBufOperand_eq, packBufOperand_eq]
    exact List.map_congr_left fun j hj => packBuf j (List.mem_range.1 hj)
  refine ⟨fun j hj => ?_, fun k hk => ?_⟩
  · rw [packBuf j hj, State.packBuf_packed s hj]
  · rw [operand, ← State.slices_packed]
    exact State.cwBuf_sliced _ hk

/-- Settles O53: MSGCW and ADDRCW find after PACK what ENCODE computes from, and no capacity is exceeded. -/
theorem encodeAgreesWithTheCommandsInSequence : Obligations.EncodeAgreesWithTheCommandsInSequence := by
  unfold Obligations.EncodeAgreesWithTheCommandsInSequence
  intro s msg dst packCap cwCap
  have packs := exec_pack_of_fits msg ((packedLen_le (msgLenOperand s)).trans packCap)
  have slices : (s.packed.complete .ok .none).slices = encodeCount s := s.slices_packed
  have slicesFit : (s.packed.complete .ok .none).slices ≤ (s.packed.complete .ok .none).cwCap.toNat :=
    slices.trans_le ((encodeCount_le s).trans cwCap)
  obtain ⟨t, out, packLen, cwCount, addrCw, holds⟩ := exec_encode_encoded msg dst
  refine ⟨_, _, (s.packedSliced.complete .ok .none).addressed.complete .ok .none, t, packs,
    exec_msgcw_of_fits slicesFit, exec_addrcw _, out, ?_, ?_, ?_, ?_⟩
  · rw [packLen]
    simp [State.addressed, State.packedSliced, State.sliced, State.packed]
  · rw [cwCount, ← slices]
    simp [State.addressed, State.packedSliced, State.sliced]
  · rw [addrCw]
    simp [State.addressed, State.packedSliced, State.sliced, State.packed]
  · have mem : ((s.packedSliced.complete .ok .none).addressed.complete .ok .none).mem = s.packedSliced.mem := by
      simp [State.addressed]
    exact (s.holdsIntermediates_packedSliced.of_mem_eq mem).eq holds ⟨rfl, fun _ _ => rfl⟩

/-! ### The words of the frame (R575) -/

/-- Sync word, address codeword and message codewords pass both checks. -/
theorem goodCodeword_encodeWords {s : State} {k : Nat} (h : k < (encodeWords s).length) :
    goodCodeword (encodeWords s)[k] := by
  have count := encodeWords_length s
  match k, h with
  | 0, _ => exact checks_syncCw .b30_1
  | 1, _ => exact goodCodeword_addrCodeword s.opa
  | k + 2, h =>
    have inCount : k < encodeCount s := by omega
    have word : (encodeWords s)[k + 2] = msgCodeword .b30_1 (packedBuf (msgOperand s) (msgLenOperand s)) k := by
      simp [encodeWords, frameWords, msgCodewords_getElem, inCount]
    rw [word]
    exact goodCodeword_msgCodeword _ k

/-- Settles O54: a group from byte 72 on is a word of the frame, and each of them is a good codeword. -/
theorem everyFrameGroupIsAGoodCodeword : Obligations.EveryFrameGroupIsAGoodCodeword := by
  unfold Obligations.EveryFrameGroupIsAGoodCodeword
  intro s t ran ok
  cases runs_of_exec ran with
  | computed word => cases word
  | encodeAbsent | encodeExceeds => simp at ok
  | encodeFits =>
    rw [State.complete_outLen, State.outLen_framed_toNat]
    obtain ⟨shortest, -⟩ := encodeLen_range s
    refine ⟨shortest, fun g hg inFrame => ?_⟩
    have size : encodeLen s = 80 + 4 * encodeCount s := rfl
    have inWords : g - 18 < (encodeWords s).length := by
      rw [encodeWords_length]
      omega
    have group := State.outWord_framed s inWords
    rw [show 72 + 4 * (g - 18) = 4 * g by omega] at group
    exact group ▸ goodCodeword_encodeWords inWords

end Sys2Proof.Machine
end

section
/-! PROOFS. The invariants of 10_state.md, 42_bch_parity.md and 44_packer.md to 46_frame.md. A step keeps the results,
or resets them, or runs a command from a state with the same results, or reports a word that is no command; so an
invariant of the results is kept by every step when every command keeps it. The buffer store is kept canonical store by
store. -/

namespace Sys2Proof.Machine

/-! ### One induction for the invariants of the results -/

/-- What a step does to the results. -/
theorem step_results_cases {s t : State} (h : step s = .next t) :
    s.ResultsKept t ∨ State.reset.ResultsKept t ∨ (∃ u i, s.ResultsKept u ∧ Runs u i t) ∨
      ∃ u, s.ResultsKept u ∧ t = u.illegalCommand := by
  obtain ⟨-, idle⟩ | ⟨e, rest, -, out⟩ := step_cases s
  · cases idle.symm.trans h
    exact .inl s.resultsKept_refl
  · have served : serve e (s.accept rest) = .next t := out.symm.trans h
    by_cases isReset : e = .reset
    · subst isReset
      cases served
      exact .inr (.inl State.reset.resultsKept_refl)
    · by_cases isCmd : ∃ v, e = .write 0x004 4 v
      · obtain ⟨v, rfl⟩ := isCmd
        rw [serve_cmd] at served
        obtain ⟨i, -, ran⟩ | ⟨-, -, reported⟩ := writeCmd_cases Config.hasFrame v (s.accept rest)
        · exact .inr (.inr (.inl ⟨_, i, s.resultsKept_accept rest, runs_of_exec (ran.symm.trans served)⟩))
        · cases reported.symm.trans served
          exact .inr (.inr (.inr ⟨_, s.resultsKept_accept rest, rfl⟩))
      · exact .inl (serve_resultsKept (s := s.accept rest) isReset (not_exists.1 isCmd) served)

/-- An invariant of the results that holds at reset and that commands and illegal words keep is kept by every step. -/
theorem step_keeps {P : State → Prop} (congr : ∀ {s t}, s.ResultsKept t → P s → P t) (reset : P State.reset)
    (command : ∀ {s i t}, Runs s i t → P s → P t) (illegal : ∀ {s}, P s → P s.illegalCommand) {s t : State} (h : P s)
    (stepped : step s = .next t) : P t := by
  obtain kept | isReset | ⟨u, i, kept, runs⟩ | ⟨u, kept, rfl⟩ := step_results_cases stepped
  · exact congr kept h
  · exact congr isReset reset
  · exact command runs (congr kept h)
  · exact illegal (congr kept h)

/-! ### What a command can leave in each result -/

/-- `PACK_BUF` and its length are kept, or both are the packer's. -/
theorem Runs.packBuf_cases {s t : State} {i : Instr} (h : Runs s i t) :
    (t.packLen = s.packLen ∧ ∀ j, j < 35 → t.packBuf j = s.packBuf j) ∨
      (t.packLen = BitVec.ofNat 8 (packedLen (msgLenOperand s)) ∧
        ∀ j, j < 35 → t.packBuf j = (packedBuf (msgOperand s) (msgLenOperand s)).getD j 0) := by
  cases h with
  | packFits => exact .inr ⟨rfl, fun _ hj => s.packBuf_packed hj⟩
  | encodeExceeds =>
    obtain ⟨packLen, -, -, packBuf, -⟩ := s.encoded_encodeIntermediates_complete .capacity .frame
    exact .inr ⟨packLen, packBuf⟩
  | encodeFits =>
    obtain ⟨packLen, -, -, packBuf, -⟩ := s.encoded_framed_complete .ok .none
    exact .inr ⟨packLen, packBuf⟩
  | msgcwFits => exact .inl ⟨rfl, fun _ hj => State.packBuf_setCwBuf s _ hj⟩
  | nop | computed | addrcw | packAbsent | packExceeds | msgcwExceeds | encodeAbsent => exact .inl ⟨rfl, fun _ _ => rfl⟩

/-- `CW_BUF` and its count are kept, or both are the assembler's for a packed length in its register's range. -/
theorem Runs.cwBuf_cases {s t : State} {i : Instr} (h : Runs s i t) :
    (t.cwCount = s.cwCount ∧ ∀ k, k < 12 → t.cwBuf k = s.cwBuf k) ∨
      ∃ p pb, (p = s.packLen.toNat ∨ p ≤ 35) ∧ t.cwCount = BitVec.ofNat 8 (msgCount p) ∧
        ∀ k, k < 12 → t.cwBuf k = if k < msgCount p then msgCodeword .b30_1 pb k else 0 := by
  cases h with
  | msgcwFits => exact .inr ⟨packLenOperand s, _, .inl rfl, rfl, fun _ hk => s.cwBuf_sliced hk⟩
  | encodeExceeds =>
    obtain ⟨-, cwCount, -, -, cwBuf⟩ := s.encoded_encodeIntermediates_complete .capacity .frame
    exact .inr ⟨packedLen (msgLenOperand s), _, .inr (packedLen_le _), cwCount, cwBuf⟩
  | encodeFits =>
    obtain ⟨-, cwCount, -, -, cwBuf⟩ := s.encoded_framed_complete .ok .none
    exact .inr ⟨packedLen (msgLenOperand s), _, .inr (packedLen_le _), cwCount, cwBuf⟩
  | packFits => exact .inl ⟨rfl, fun k _ => State.cwBuf_setPackBuf s k (packedBuf_length ..).le⟩
  | nop | computed | addrcw | packAbsent | packExceeds | msgcwExceeds | encodeAbsent => exact .inl ⟨rfl, fun _ _ => rfl⟩

theorem Runs.addrCw_cases {s t : State} {i : Instr} (h : Runs s i t) :
    t.addrCw = s.addrCw ∨ t.addrCw = addrCodeword .b30_1 s.opa := by
  cases h with
  | addrcw => exact .inr rfl
  | encodeExceeds =>
    obtain ⟨-, -, addrCw, -⟩ := s.encoded_encodeIntermediates_complete .capacity .frame
    exact .inr addrCw
  | encodeFits =>
    obtain ⟨-, -, addrCw, -⟩ := s.encoded_framed_complete .ok .none
    exact .inr addrCw
  | nop | computed | packAbsent | packExceeds | packFits | msgcwExceeds | msgcwFits | encodeAbsent => exact .inl rfl

theorem Runs.outLen_cases {s t : State} {i : Instr} (h : Runs s i t) :
    t.outLen = s.outLen ∨ t.outLen.toNat = 0 ∨ t.outLen.toNat = encodeLen s := by
  cases h with
  | encodeExceeds => exact .inr (.inl rfl)
  | encodeFits => exact .inr (.inr s.outLen_framed_toNat)
  | nop | computed | addrcw | packAbsent | packExceeds | packFits | msgcwExceeds | msgcwFits | encodeAbsent =>
    exact .inl rfl

/-- The packed length fits its register. -/
theorem toNat_packedLen (len : Nat) : (BitVec.ofNat 8 (packedLen len)).toNat = packedLen len := by
  have range := packedLen_le len
  rw [BitVec.toNat_ofNat, Nat.mod_eq_of_lt (by omega)]

/-- The count of any packed length that fits its register fits its register. -/
theorem toNat_msgCount {p : Nat} (h : p < 256) : (BitVec.ofNat 8 (msgCount p)).toNat = msgCount p := by
  rw [BitVec.toNat_ofNat, msgCount, Nat.mod_eq_of_lt (by omega)]

/-! ### The lengths (R100) -/

theorem LengthInv.congr {s t : State} (kept : s.ResultsKept t) (h : LengthInv s) : LengthInv t := by
  obtain ⟨-, -, packLen, cwCount, outLen, -⟩ := kept
  rwa [LengthInv, packLen, cwCount, outLen]

theorem LengthInv.reset : LengthInv State.reset := by
  simp [LengthInv]

theorem LengthInv.runs {s t : State} {i : Instr} (h : Runs s i t) (inv : LengthInv s) : LengthInv t := by
  obtain ⟨packLen, cwCount, outLen⟩ := inv
  refine ⟨?_, ?_, ?_⟩
  · obtain ⟨same, -⟩ | ⟨written, -⟩ := h.packBuf_cases
    · rwa [same]
    · rw [written, toNat_packedLen]
      exact packedLen_le _
  · obtain ⟨same, -⟩ | ⟨p, -, range, written, -⟩ := h.cwBuf_cases
    · rwa [same]
    · have bound : p ≤ 35 := range.elim (fun is => is.trans_le packLen) id
      rw [written, toNat_msgCount (by omega)]
      exact msgCount_le bound
  · obtain same | zero | written := h.outLen_cases
    · rwa [same]
    · exact .inl zero
    · obtain ⟨shortest, longest⟩ := encodeLen_range s
      have size : encodeLen s = 80 + 4 * encodeCount s := rfl
      omega

/-- Settles O57: the packer's length, the assembler's count and the frame's length are in range. -/
theorem stepKeepsTheLengthRanges : Obligations.StepKeepsTheLengthRanges := by
  unfold Obligations.StepKeepsTheLengthRanges
  exact fun s t => step_keeps LengthInv.congr LengthInv.reset LengthInv.runs id

/-! ### `STATUS` (R105, R600) -/

theorem StatusInv.congr {s t : State} (kept : s.ResultsKept t) (h : StatusInv s) : StatusInv t := by
  obtain ⟨-, -, -, -, -, err, stage, -⟩ := kept
  rwa [StatusInv, err, stage]

theorem StatusInv.reset : StatusInv State.reset := by
  simp [StatusInv]

theorem StatusInv.runs {s t : State} {i : Instr} (h : Runs s i t) : StatusInv t := by
  rw [StatusInv, ne_eq, h.stage_eq_none_iff, not_not]

theorem StatusInv.illegalCommand (s : State) : StatusInv s.illegalCommand := by
  simp [StatusInv, State.illegalCommand]

/-- Settles O58: a command names a stage exactly with CAPACITY, and the report of an illegal word names none. -/
theorem stepKeepsStageOnlyWithCapacity : Obligations.StepKeepsStageOnlyWithCapacity := by
  unfold Obligations.StepKeepsStageOnlyWithCapacity
  exact fun s t => step_keeps StatusInv.congr StatusInv.reset (fun h _ => .runs h) fun _ => .illegalCommand _

/-! ### The tails of the buffers (R503, R538) -/

/-- From the packed length on no bit of the stream is a character's, so the bytes are zero. -/
theorem packedBuf_getD_tail (msg : List Byte) (len : Nat) {j : Nat} (hj : packedLen len ≤ j) (h35 : j < 35) :
    (packedBuf msg len).getD j 0 = 0 := by
  refine BitVec.eq_of_getLsbD_eq fun m hm => ?_
  have bit : ((packedBuf msg len).getD j 0).getLsbD m = streamBit (packedBuf msg len) (8 * j + (7 - m)) := by
    rw [streamBit, show (8 * j + (7 - m)) / 8 = j by omega, show 7 - (8 * j + (7 - m)) % 8 = m by omega]
  have past : ¬ 8 * j + (7 - m) < 7 * min len 40 := by
    rw [packedLen, truncatedLen, Config.maxMsgLen] at hj
    omega
  rw [bit, streamBit_packedBuf msg len (by omega), if_neg past]
  exact BitVec.getLsbD_zero.symm

theorem TailInv.congr {s t : State} (kept : s.ResultsKept t) (h : TailInv s) : TailInv t := by
  obtain ⟨-, -, packLen, cwCount, -, -, -, packBuf, cwBuf, -⟩ := kept
  obtain ⟨packTail, cwTail⟩ := h
  refine ⟨fun j hj h35 => ?_, fun k hk h12 => ?_⟩
  · rw [packBuf j h35, packTail j (packLen ▸ hj) h35]
  · rw [cwBuf k h12, cwTail k (cwCount ▸ hk) h12]

theorem TailInv.reset : TailInv State.reset :=
  ⟨fun j _ _ => State.reset_packBuf j, fun k _ _ => State.reset_cwBuf k⟩

theorem TailInv.runs {s t : State} {i : Instr} (h : Runs s i t) (inv : TailInv s) : TailInv t := by
  obtain ⟨packTail, cwTail⟩ := inv
  refine ⟨fun j hj h35 => ?_, fun k hk h12 => ?_⟩
  · obtain ⟨packLen, packBuf⟩ | ⟨packLen, packBuf⟩ := h.packBuf_cases
    · rw [packBuf j h35, packTail j (packLen ▸ hj) h35]
    · rw [packLen, toNat_packedLen] at hj
      rw [packBuf j h35, packedBuf_getD_tail _ _ hj h35]
  · obtain ⟨cwCount, cwBuf⟩ | ⟨p, pb, range, cwCount, cwBuf⟩ := h.cwBuf_cases
    · rw [cwBuf k h12, cwTail k (cwCount ▸ hk) h12]
    · have fits : p < 256 := range.elim (fun is => is ▸ s.packLen.isLt) (fun small => by omega)
      rw [cwCount, toNat_msgCount fits] at hk
      rw [cwBuf k h12, if_neg (not_lt.2 hk)]

/-- Settles O59: the packer and the assembler write zeros beyond the lengths they report. -/
theorem stepKeepsTheBufferTailsZero : Obligations.StepKeepsTheBufferTailsZero := by
  unfold Obligations.StepKeepsTheBufferTailsZero
  exact fun s t => step_keeps TailInv.congr TailInv.reset TailInv.runs id

/-! ### The codewords shown (R457, R533) -/

theorem CodewordInv.congr {s t : State} (kept : s.ResultsKept t) (h : CodewordInv s) : CodewordInv t := by
  obtain ⟨-, addrCw, -, cwCount, -, -, -, -, cwBuf, -⟩ := kept
  obtain ⟨address, messages⟩ := h
  refine ⟨addrCw ▸ address, fun k hk h12 => ?_⟩
  rw [cwBuf k h12]
  exact messages k (cwCount ▸ hk) h12

/-- The reset state shows the address codeword 0, which both checks pass. -/
theorem CodewordInv.reset : CodewordInv State.reset :=
  ⟨⟨by decide +kernel, by decide +kernel⟩, fun k hk _ => absurd hk (Nat.not_lt_zero k)⟩

theorem CodewordInv.runs {s t : State} {i : Instr} (h : Runs s i t) (inv : CodewordInv s) : CodewordInv t := by
  obtain ⟨address, messages⟩ := inv
  refine ⟨?_, fun k hk h12 => ?_⟩
  · obtain same | written := h.addrCw_cases
    · rwa [same]
    · rw [written]
      exact goodCodeword_addrCodeword s.opa
  · obtain ⟨cwCount, cwBuf⟩ | ⟨p, pb, range, cwCount, cwBuf⟩ := h.cwBuf_cases
    · rw [cwBuf k h12]
      exact messages k (cwCount ▸ hk) h12
    · have fits : p < 256 := range.elim (fun is => is ▸ s.packLen.isLt) (fun small => by omega)
      rw [cwCount, toNat_msgCount fits] at hk
      rw [cwBuf k h12, if_pos hk]
      exact ⟨goodCodeword_msgCodeword pb k, flag_msgCodeword .b30_1 pb k⟩

/-- Settles O60: whatever a command writes to `ADDR_CW` or shows in `CW_BUF` is a sealed word with zero low bits before
it was sealed. -/
theorem stepKeepsEveryShownCodewordGood : Obligations.StepKeepsEveryShownCodewordGood := by
  unfold Obligations.StepKeepsEveryShownCodewordGood
  exact fun s t => step_keeps CodewordInv.congr CodewordInv.reset CodewordInv.runs id

/-! ### The buffer store (R202, R700; log 8, log 9) -/

theorem StorageInv.of_mem_eq {s t : State} (h : StorageInv s) (mem : t.mem = s.mem) : StorageInv t := by
  rwa [StorageInv, mem]

theorem StorageInv.reset : StorageInv State.reset :=
  ⟨State.reset_mem_wf, nofun⟩

/-- A store into a buffer keeps the store canonical and inside the buffers. -/
theorem StorageInv.store {s : State} (h : StorageInv s) {a : Nat} {bs : List Byte}
    (inside : ∀ x, a ≤ x → x < a + bs.length → isStored x = true) : StorageInv (s.store a bs) := by
  obtain ⟨wf, stored⟩ := h
  refine ⟨Memory.store_wf wf a bs, fun c hc => ?_⟩
  obtain before | ⟨first, last⟩ := Memory.mem_store hc
  · exact stored c before
  · exact inside c.1 first last

theorem StorageInv.setPackBuf {s : State} (h : StorageInv s) {bs : List Byte} (len : bs.length ≤ 35) :
    StorageInv (s.setPackBuf bs) :=
  h.store fun x first last => isStored_iff.2 (by rw [Config.packBase] at first last; omega)

theorem StorageInv.setCwBuf {s : State} (h : StorageInv s) {ws : List Word} (len : ws.length ≤ 12) :
    StorageInv (s.setCwBuf ws) :=
  h.store fun x first last => isStored_iff.2 (by
    rw [flatMap_four_length bytesLE_length] at last
    rw [Config.cwBase] at first last
    omega)

theorem StorageInv.setOutBuf {s : State} (h : StorageInv s) {bs : List Byte} (len : bs.length ≤ 128) :
    StorageInv (s.setOutBuf bs) :=
  h.store fun x first last => isStored_iff.2 (by rw [Config.outBase] at first last; omega)

theorem StorageInv.encodeIntermediates {s : State} (h : StorageInv s) : StorageInv s.encodeIntermediates :=
  ((h.setPackBuf (packedBuf_length (msgOperand s) (msgLenOperand s)).le).setCwBuf
    (msgCodewords_length .b30_1 (packedBuf (msgOperand s) (msgLenOperand s)) (encodeCount s)).le).of_mem_eq
    s.encodeIntermediates_mem

theorem StorageInv.runs {s t : State} {i : Instr} (h : Runs s i t) (inv : StorageInv s) : StorageInv t := by
  cases h with
  | packFits => exact (inv.setPackBuf (packedBuf_length ..).le).of_mem_eq rfl
  | msgcwFits => exact (inv.setCwBuf (msgCodewords_length ..).le).of_mem_eq rfl
  | encodeExceeds => exact inv.encodeIntermediates.of_mem_eq rfl
  | encodeFits =>
    obtain ⟨-, longest⟩ := encodeLen_range s
    exact (inv.encodeIntermediates.setOutBuf ((encodeFrame_length s).trans_le longest)).of_mem_eq rfl
  | nop | computed | addrcw | packAbsent | packExceeds | msgcwExceeds | encodeAbsent => exact inv.of_mem_eq rfl

theorem writeReg_mem (r : WordReg) (v : Word) (s : State) : (writeReg r v s).mem = s.mem := by
  cases r <;> rfl

theorem StorageInv.writeCmd {hasFrame : Bool} {v : Word} {s t : State} (h : StorageInv s)
    (ran : writeCmd hasFrame v s = .next t) : StorageInv t := by
  obtain ⟨i, -, out⟩ | ⟨-, -, out⟩ := writeCmd_cases hasFrame v s
  · exact StorageInv.runs (runs_of_exec (out.symm.trans ran)) h
  · cases out.symm.trans ran
    exact h.of_mem_eq rfl

theorem StorageInv.serve {e : BusEvent} {s t : State} (h : StorageInv s) (served : serve e s = .next t) :
    StorageInv t := by
  obtain ⟨_, _, -, -, v, out⟩ | ⟨v, -, out⟩ | ⟨r, v, -, -, out⟩ |
    ⟨_, _, _, -, legal, -, out | ⟨inside, bs, len, out⟩⟩ | ⟨-, out⟩ | ⟨_, _, _, -, -, out⟩ := serve_cases e s
  · cases out.symm.trans served
    exact h.of_mem_eq rfl
  · exact h.writeCmd (out.symm.trans served)
  · cases out.symm.trans served
    exact h.of_mem_eq (writeReg_mem r v s)
  · cases out.symm.trans served
    exact h
  · cases out.symm.trans served
    obtain ⟨first, last⟩ := msg_access_inside legal inside
    exact h.store fun x _ _ => isStored_iff.2 (by omega)
  · cases out.symm.trans served
    exact StorageInv.reset.of_mem_eq rfl
  · cases out.symm.trans served

/-- Settles O56: every write to the buffers is a store of a block that lies in one of them. -/
theorem stepKeepsTheBufferStoreCanonical : Obligations.StepKeepsTheBufferStoreCanonical := by
  unfold Obligations.StepKeepsTheBufferStoreCanonical
  intro s t inv stepped
  obtain ⟨-, idle⟩ | ⟨e, rest, -, out⟩ := step_cases s
  · cases idle.symm.trans stepped
    exact inv
  · exact (inv.of_mem_eq (State.accept_mem s rest)).serve (out.symm.trans stepped)

/-- Settles O55: the empty store, zero lengths, no error, and the codeword 0. -/
theorem resetMeetsTheInvariants : Obligations.ResetMeetsTheInvariants := by
  unfold Obligations.ResetMeetsTheInvariants
  exact ⟨StorageInv.reset, LengthInv.reset, StatusInv.reset, TailInv.reset, CodewordInv.reset⟩

end Sys2Proof.Machine
end
